-- ==== Sys2Proof/Word.lean ====
section
/-! DEFINITION. The word types of the PCE: a byte (00_scope.md R10), a 32-bit word (R8) and a 40-bit command word
(30_encoding.md R89). Byte order, slices and bit fields stand in Machine/Operands.lean. -/

namespace Sys2Proof

/-- A byte, the unit of every buffer access (00_scope.md R10, 20_memory.md R61); bit 0 is the least significant (R9). -/
abbrev Byte := BitVec 8

/-- A 32-bit word: the CRC accumulator, a checksum, `RES`, `EINFO0`, `EINFO1`, the cursors (00_scope.md R8). -/
abbrev Word := BitVec 32

/-- A 40-bit command word, written whole to `CMD` (30_encoding.md R89, 10_state.md R40). -/
abbrev CommandWord := BitVec 40

end Sys2Proof
end

