-- ==== Sys2Proof/Syntax.lean ====
section
/-! DEFINITION. What the host can ask of the PCE: the 19 commands of 30_encoding.md R93 and the five host actions of
10_state.md R44. -/

namespace Sys2Proof

/-- A tag, and also the key of a find or remove: 4 bytes, `b0` the first on the wire (10_state.md R22). Any 4 bytes are
legal. Equality is byte-wise (R34). -/
structure Tag where
  b0 : Byte
  b1 : Byte
  b2 : Byte
  b3 : Byte
deriving DecidableEq, Repr

/-- One constructor per row of the opcode map (30_encoding.md R93). A format B operand is a byte, a format K operand
is 4 bytes (R92), so the operand types admit exactly what the formats of R91 admit. -/
inductive Instr where
  /-- NOP (42_chunk.md R151). -/
  | nop
  /-- CRC.INIT (40_crc.md R116). -/
  | crcInit
  /-- CRC.BYTE b (40_crc.md R117). -/
  | crcByte (b : Byte)
  /-- CRC.BUF (40_crc.md R118). -/
  | crcBuf
  /-- CRC.FINAL (40_crc.md R119). -/
  | crcFinal
  /-- TAG.LOAD k (41_tag.md R138). -/
  | tagLoad (k : Tag)
  /-- TAG.PARSE (41_tag.md R139). -/
  | tagParse
  /-- CH.BUILD (42_chunk.md R160). -/
  | chBuild
  /-- CH.LEN (42_chunk.md R161). -/
  | chLen
  /-- CH.CRC (42_chunk.md R162). -/
  | chCrc
  /-- CH.SER (42_chunk.md R164). -/
  | chSer
  /-- CH.PARSE (42_chunk.md R163). -/
  | chParse
  /-- CH.DATA (42_chunk.md R166). -/
  | chData
  /-- CH.TAG (42_chunk.md R167). -/
  | chTag
  /-- CT.PARSE (43_container.md R181). -/
  | ctParse
  /-- CT.APPEND (43_container.md R184). -/
  | ctAppend
  /-- CT.FIND k (43_container.md R186). -/
  | ctFind (k : Tag)
  /-- CT.REMOVE k (43_container.md R188). -/
  | ctRemove (k : Tag)
  /-- CT.SER (43_container.md R189). -/
  | ctSer
deriving DecidableEq, Repr

/-- The host's actions (10_state.md R44). -/
inductive HostAction where
  /-- `Reset`: every state element takes its value of R45. -/
  | reset
  /-- `HostLoad(s)`: `IBUF <- s`. -/
  | load (bytes : List Byte)
  /-- `HostCmd(cw)`: the command `cw` decodes to runs to its end. -/
  | cmd (cw : CommandWord)
  /-- `HostRead(n)`: read of register number `n` of R41. -/
  | read (n : Nat)
  /-- `HostReadOut()`: read of OBUF. -/
  | readOut
deriving DecidableEq, Repr

end Sys2Proof
end

