-- ==== Sys2Proof/Machine/Operands.lean ====
section
/-! DEFINITION. How operands are put together: big-endian 32-bit fields (00_scope.md R11), reads of a run of bytes
(R10, R12), the tag operand of a command word (30_encoding.md R92) and the 32-bit view of a tag (10_state.md R22). -/

namespace Sys2Proof.Machine

/-- `be32(v)`, most significant byte first (00_scope.md R11). -/
def be32 (v : Word) : List Byte :=
  [v.extractLsb' 24 8, v.extractLsb' 16 8, v.extractLsb' 8 8, v.extractLsb' 0 8]

/-- `unbe32(s)` for a 4-byte sequence (00_scope.md R11); every rule guards that 4 bytes are there (20_memory.md R69). -/
def unbe32 (s : List Byte) : Word :=
  s.getD 0 0 ++ s.getD 1 0 ++ s.getD 2 0 ++ s.getD 3 0

/-- `MemRead(buf, a, n) = buf[a..a+n)` (00_scope.md R12); every rule guards `a + n <= |buf|`. -/
def memRead (buf : List Byte) (a n : Nat) : List Byte :=
  (buf.drop a).take n

/-- The 4 bytes of a tag in wire order (20_memory.md R64). -/
def tagBytes (t : Tag) : List Byte :=
  [t.b0, t.b1, t.b2, t.b3]

/-- The tag whose bytes are a 4-byte sequence. -/
def tagOfBytes (s : List Byte) : Tag :=
  ⟨s.getD 0 0, s.getD 1 0, s.getD 2 0, s.getD 3 0⟩

/-- The 32-bit view of a tag, `unbe32(T)`: first byte in bits 31:24 (10_state.md R22, 20_memory.md R64). -/
def tagWord (t : Tag) : Word :=
  t.b0 ++ t.b1 ++ t.b2 ++ t.b3

/-- The format K operand, `k = be32(arg)` (30_encoding.md R92). -/
def tagOfWord (arg : Word) : Tag :=
  ⟨arg.extractLsb' 24 8, arg.extractLsb' 16 8, arg.extractLsb' 8 8, arg.extractLsb' 0 8⟩

/-- A natural written into a 32-bit register; by 00_scope.md R5 and R8 it is below 2^32 (log entry 9). -/
def reg32 (n : Nat) : Word :=
  BitVec.ofNat 32 n

end Sys2Proof.Machine
end

