-- ==== Sys2Proof/Config.lean ====
section
/-! DEFINITION. The four implementation parameters of 00_scope.md R5 and their defaults. A model takes them as
arguments (R5); here they are a record that State carries and no step changes (log entry 2). After them the free values
of the two host reads whose result the spec leaves open (10_state.md R23; log entry 4); it leaves no result of any
command open. -/

namespace Sys2Proof

/-- The parameters of 00_scope.md R5. -/
structure Params where
  /-- `SIG`, the 8 bytes that open a serialized container. -/
  sig       : Vector Byte 8
  /-- `BUF_CAP`, capacity in bytes of IBUF, of OBUF and of one payload. -/
  bufCap    : Nat
  /-- `MAX_CHUNKS`, largest number of chunks the store holds. -/
  maxChunks : Nat
  /-- `STORE_CAP`, largest total footprint of the store. -/
  storeCap  : Nat
deriving DecidableEq, Repr

/-- The defaults of 00_scope.md R5. PRESUMED (by the spec itself, its G1): the eight bytes of the PNG signature
(log entry 11). -/
def Params.default : Params where
  sig       := #v[0x89, 0x50, 0x4E, 0x47, 0x0D, 0x0A, 0x1A, 0x0A]
  bufCap    := 4294967295
  maxChunks := 65536
  storeCap  := 4294967295

/-- FREE VALUE: what the `k`-th unspecified host read returns when it is a read of `T` while `TV = 0` (10_state.md R23:
"returns an unspecified value"). Nothing is known of it (log entry 4). -/
opaque freeTagRead (k : Nat) : Word

/-- FREE VALUE: what the `k`-th unspecified host read returns when it is a read of `TFLAGS` while `TV = 0` (10_state.md
R23). Nothing is known of it, nor of its relation to `freeTagRead` (log entry 4). -/
opaque freeFlagsRead (k : Nat) : Byte

end Sys2Proof
end

