-- ==== Sys2Proof/WellFormed.lean ====
section
/-! DEFINITION. The checks on what is given to the PCE: the constraints on the parameters (00_scope.md R5), the
command words that select a row of the opcode map (30_encoding.md R91, R93), the precondition of a host action
(10_state.md R44). An `Instr` needs no check of its own: its operand types hold exactly what R91 admits. -/

namespace Sys2Proof

/-- The constraint column of 00_scope.md R5. -/
def Params.wf (p : Params) : Bool :=
  decide (12 ≤ p.bufCap) && decide (p.bufCap ≤ 4294967295) &&
  decide (1 ≤ p.maxChunks) && decide (p.maxChunks ≤ 4294967295) &&
  decide (12 ≤ p.storeCap)

/-- The `match` and `mask` columns of one row of the opcode map. -/
structure OpcodeRow where
  matchWord : CommandWord
  mask      : CommandWord
deriving DecidableEq, Repr

/-- A word selects a row when `cw and mask = match` (30_encoding.md R93). -/
def OpcodeRow.selects (r : OpcodeRow) (cw : CommandWord) : Bool :=
  cw &&& r.mask == r.matchWord

/-- The `match` and `mask` columns of 30_encoding.md R93, row by row. -/
def opcodeTable : List OpcodeRow :=
  [⟨0x0000000000, 0xFFFFFFFFFF⟩, ⟨0x1000000000, 0xFFFFFFFFFF⟩, ⟨0x1100000000, 0xFFFFFFFF00⟩,
   ⟨0x1200000000, 0xFFFFFFFFFF⟩, ⟨0x1300000000, 0xFFFFFFFFFF⟩, ⟨0x2000000000, 0xFF00000000⟩,
   ⟨0x2100000000, 0xFFFFFFFFFF⟩] ++
  [⟨0x3000000000, 0xFFFFFFFFFF⟩, ⟨0x3100000000, 0xFFFFFFFFFF⟩, ⟨0x3200000000, 0xFFFFFFFFFF⟩,
   ⟨0x3300000000, 0xFFFFFFFFFF⟩, ⟨0x3400000000, 0xFFFFFFFFFF⟩, ⟨0x3500000000, 0xFFFFFFFFFF⟩,
   ⟨0x3600000000, 0xFFFFFFFFFF⟩] ++
  [⟨0x4000000000, 0xFFFFFFFFFF⟩, ⟨0x4100000000, 0xFFFFFFFFFF⟩, ⟨0x4200000000, 0xFF00000000⟩,
   ⟨0x4300000000, 0xFF00000000⟩, ⟨0x4400000000, 0xFFFFFFFFFF⟩]

/-- A command word is well-formed when it selects a row; any other word is illegal (30_encoding.md R90, R94). -/
def wellFormedWord (cw : CommandWord) : Bool :=
  opcodeTable.any fun r => r.selects cw

/-- The precondition of a host action: only `HostLoad(s)` has one, `|s| <= BUF_CAP` (10_state.md R44). -/
def HostAction.wf (p : Params) : HostAction → Bool
  | .reset => true
  | .load bytes => decide (bytes.length ≤ p.bufCap)
  | .cmd _ => true
  | .read _ => true
  | .readOut => true

end Sys2Proof
end

