-- ==== Sys2Proof/Decode.lean ====
section
/-! DEFINITION. Decode of a command word (30_encoding.md R89 to R94), total and rejecting by name, and the encoder
written from the same table. -/

namespace Sys2Proof

/-- Why a word selects no command (30_encoding.md R90, R94). Each is the error IllegalCommand (60_exceptions.md R212). -/
inductive Illegal where
  /-- The opcode is none of R93's. -/
  | unlistedOpcode (op : Byte)
  /-- A format N word whose `arg` is not 0. -/
  | operandNotZero (arg : Word)
  /-- A format B word whose `arg[31:8]` is not 0. -/
  | operandTooWide (arg : Word)
deriving DecidableEq, Repr

/-- `op = cw[39:32]` (30_encoding.md R89). -/
def opField (cw : CommandWord) : Byte :=
  cw.extractLsb' 32 8

/-- `arg = cw[31:0]` (30_encoding.md R89). -/
def argField (cw : CommandWord) : Word :=
  cw.extractLsb' 0 32

/-- Format N: `arg` must be 0 (30_encoding.md R91). -/
def formatN (i : Instr) (arg : Word) : Except Illegal Instr :=
  if arg = 0 then .ok i else .error (.operandNotZero arg)

/-- Format B: `arg[31:8]` must be 0, the operand is `arg[7:0]` (30_encoding.md R91, R92). -/
def formatB (i : Byte → Instr) (arg : Word) : Except Illegal Instr :=
  if arg.extractLsb' 8 24 = 0 then .ok (i (arg.extractLsb' 0 8)) else .error (.operandTooWide arg)

/-- Format K: every `arg` is legal, the operand is `be32(arg)` (30_encoding.md R91, R92). -/
def formatK (i : Tag → Instr) (arg : Word) : Except Illegal Instr :=
  .ok (i (Machine.tagOfWord arg))

/-- Decode of a command word (30_encoding.md R90, R93): every one of the 2^40 words selects exactly one command or is
illegal. -/
def decode (cw : CommandWord) : Except Illegal Instr :=
  match opField cw with
  | 0x00 => formatN .nop (argField cw)
  | 0x10 => formatN .crcInit (argField cw)
  | 0x11 => formatB .crcByte (argField cw)
  | 0x12 => formatN .crcBuf (argField cw)
  | 0x13 => formatN .crcFinal (argField cw)
  | 0x20 => formatK .tagLoad (argField cw)
  | 0x21 => formatN .tagParse (argField cw)
  | 0x30 => formatN .chBuild (argField cw)
  | 0x31 => formatN .chLen (argField cw)
  | 0x32 => formatN .chCrc (argField cw)
  | 0x33 => formatN .chSer (argField cw)
  | 0x34 => formatN .chParse (argField cw)
  | 0x35 => formatN .chData (argField cw)
  | 0x36 => formatN .chTag (argField cw)
  | 0x40 => formatN .ctParse (argField cw)
  | 0x41 => formatN .ctAppend (argField cw)
  | 0x42 => formatK .ctFind (argField cw)
  | 0x43 => formatK .ctRemove (argField cw)
  | 0x44 => formatN .ctSer (argField cw)
  | op => .error (.unlistedOpcode op)

/-- The opcode column of 30_encoding.md R93. -/
def opcodeOf : Instr → Byte
  | .nop => 0x00
  | .crcInit => 0x10
  | .crcByte _ => 0x11
  | .crcBuf => 0x12
  | .crcFinal => 0x13
  | .tagLoad _ => 0x20
  | .tagParse => 0x21
  | .chBuild => 0x30
  | .chLen => 0x31
  | .chCrc => 0x32
  | .chSer => 0x33
  | .chParse => 0x34
  | .chData => 0x35
  | .chTag => 0x36
  | .ctParse => 0x40
  | .ctAppend => 0x41
  | .ctFind _ => 0x42
  | .ctRemove _ => 0x43
  | .ctSer => 0x44

/-- The operand field of a command (30_encoding.md R91, R92): 0 in format N. -/
def operandOf : Instr → Word
  | .nop => 0
  | .crcInit => 0
  | .crcByte b => b.setWidth 32
  | .crcBuf => 0
  | .crcFinal => 0
  | .tagLoad k => Machine.tagWord k
  | .tagParse => 0
  | .chBuild => 0
  | .chLen => 0
  | .chCrc => 0
  | .chSer => 0
  | .chParse => 0
  | .chData => 0
  | .chTag => 0
  | .ctParse => 0
  | .ctAppend => 0
  | .ctFind k => Machine.tagWord k
  | .ctRemove k => Machine.tagWord k
  | .ctSer => 0

/-- The command word of a command (30_encoding.md R89): `op` in bits 39:32, `arg` in bits 31:0. -/
def encode (i : Instr) : CommandWord :=
  opcodeOf i ++ operandOf i

/-- The instruction the decoder reads from a word given as the opcode table numbers its bits (bit 0 least
significant): the low `nbits` bits of `w`, every bit above them 0. A value that does not fit the 40-bit command port
is no command word (log entry 13). -/
def decodeTableWord (nbits w : Nat) : Option Instr :=
  let v := w % 2 ^ nbits
  if v < 2 ^ 40 then (decode (BitVec.ofNat 40 v)).toOption else none

end Sys2Proof
end

