-- ==== Sys2Proof/Machine/State.lean ====
section
/-! DEFINITION. The machine's state as plain data (10_state.md R20 to R39), its reset (R45), the error kinds
(60_exceptions.md R211) and the reasons a step can stop. -/

namespace Sys2Proof.Machine

/-- A chunk (10_state.md R32): its tag, its payload and the hidden checksum cache (R39). Length, checksum and
footprint are derived, never stored. -/
structure Chunk where
  tag     : Tag
  payload : List Byte
  ck      : Option Word
deriving DecidableEq, Repr

/-- The two messages of FormatError (60_exceptions.md R215). -/
inductive FormatReason where
  | notFourBytes
  | notAlphabetic
deriving DecidableEq, Repr

/-- The operand that OperandMissing names (60_exceptions.md R213). -/
inductive Operand where
  | tagRegister
  | workingChunk
deriving DecidableEq, Repr

/-- The limit that CapacityExceeded names (60_exceptions.md R214). -/
inductive Capacity where
  | bufCap
  | maxChunks
  | storeCap
deriving DecidableEq, Repr

/-- The error kinds of 60_exceptions.md R211 with what each records (R215). An error is a result of a command, not a
stop of the machine (R210). -/
inductive Err where
  | formatError (reason : FormatReason)
  /-- The bytes available at the frame's start. -/
  | truncatedInput (available : Nat)
  /-- The length field `L` and the bytes available at the frame's start. -/
  | sizeMismatch (length : Word) (available : Nat)
  /-- Listed by the spec and raised by no command (42_chunk.md R165). -/
  | trailingBytes
  | checksumMismatch (computed expected : Word)
  | badSignature
  | chunkNotFound (key : Tag)
  | illegalCommand (cw : CommandWord)
  | operandMissing (which : Operand)
  | capacityExceeded (which : Capacity)
deriving DecidableEq, Repr

/-- What the host got from a read (10_state.md R44): the model's record of the host's side (log entry 6). -/
inductive Observation where
  /-- `HostRead(n)` returned the value, zero-extended to 40 bits. -/
  | register (n : Nat) (value : CommandWord)
  /-- `HostReadOut()` returned the bytes. -/
  | output (bytes : List Byte)
deriving DecidableEq, Repr

/-- The state: the architectural state of 10_state.md R20, then the parameters of R21 (log entry 2), then the model's
record of the host (log entries 1 and 6) and its count of free values used (log entry 4). -/
structure State where
  /-- `T`, the tag register (R22). -/
  t         : Tag
  /-- `TV`, its valid bit (R22). -/
  tv        : Bool
  /-- `RES`, the result register (R24). -/
  res       : Word
  /-- `CRCACC`, the CRC accumulator (R25). -/
  crcacc    : Word
  /-- `ERR`, the error kind of the last command (R26). -/
  err       : Byte
  /-- `EINFO0` (R26). -/
  einfo0    : Word
  /-- `EINFO1` (R26). -/
  einfo1    : Word
  /-- `FOUND` (R27). -/
  found     : Bool
  /-- `CUR`, the byte cursor (R30). -/
  cur       : Word
  /-- `IDX`, the chunk cursor (R31). -/
  idx       : Word
  /-- `W`, the working chunk (R33). -/
  w         : Option Chunk
  /-- `CS`, the chunk store (R35). -/
  cs        : List Chunk
  /-- `IBUF`, the input buffer (R37). -/
  ibuf      : List Byte
  /-- `OBUF`, the output buffer (R38). -/
  obuf      : List Byte
  /-- The parameters (R5, R21); no step changes them. -/
  cfg       : Params
  /-- The host's coming actions, oldest first (R7, R44). -/
  pending   : List HostAction
  /-- What the host has read, newest first (R44). -/
  observed  : List Observation
  /-- How many reads with an unspecified value there have been (R23): the next one takes a fresh free value. -/
  freeReads : Nat
deriving DecidableEq, Repr

/-- The value of every element after `Reset` (10_state.md R45), for given parameters, which reset does not change
(70_reset_and_hazards.md R241). DESIGN CHOICE: R45 leaves `T` unspecified; it is four zero bytes (log entry 3). -/
def State.resetWith (p : Params) : State where
  t         := ⟨0, 0, 0, 0⟩
  tv        := false
  res       := 0
  crcacc    := 0xFFFFFFFF
  err       := 0
  einfo0    := 0
  einfo1    := 0
  found     := false
  cur       := 0
  idx       := 0
  w         := none
  cs        := []
  ibuf      := []
  obuf      := []
  cfg       := p
  pending   := []
  observed  := []
  freeReads := 0

/-- The machine right after reset, with the default parameters (10_state.md R45, 00_scope.md R5) and a host that has
made no action yet. -/
def State.reset : State :=
  State.resetWith Params.default

/-- No step faults: "The PCE has no `stuck` case" (93_implementation_defined.md Part 1) and an error is a next state
(60_exceptions.md R210), so the type has no constructor; nobody raises one (log entry 10). -/
inductive Fault where
deriving DecidableEq, Repr

/-- Why a host action has no meaning. -/
inductive Refusal where
  /-- Raised by exec alone, for an instruction without a meaning; no arm raises it. Safe: nothing is claimed. -/
  | notModelled (mnemonic : String)
  /-- Raised by `HostLoad(s)` with `|s| > BUF_CAP`, which has no move (10_state.md R44, D2). Safe: the model stops. -/
  | loadTooLong
deriving DecidableEq, Repr

end Sys2Proof.Machine
end

