-- ==== Sys2Proof/Machine/Flags.lean ====
section
/-! DEFINITION. The flag computations: the alphabetic test and the six tag flags (41_tag.md R130 to R137), the view
`TFLAGS` (10_state.md R23) and the view `STATUS` (R28). -/

namespace Sys2Proof.Machine

/-- `alpha(b)`: an ASCII letter (41_tag.md R130). -/
def alpha (b : Byte) : Bool :=
  (decide (65 ≤ b.toNat) && decide (b.toNat ≤ 90)) || (decide (97 ≤ b.toNat) && decide (b.toNat ≤ 122))

/-- `CRIT(t)`: bit 5 of the first byte is 0 (41_tag.md R131). -/
def tagCrit (t : Tag) : Bool := !t.b0.getLsbD 5

/-- `PUB(t)`: bit 5 of the second byte is 0 (41_tag.md R132). -/
def tagPub (t : Tag) : Bool := !t.b1.getLsbD 5

/-- `RSV(t)`: bit 5 of the third byte is 0 (41_tag.md R133). -/
def tagRsv (t : Tag) : Bool := !t.b2.getLsbD 5

/-- `SAFE(t)`: bit 5 of the fourth byte is 1 (41_tag.md R134). -/
def tagSafe (t : Tag) : Bool := t.b3.getLsbD 5

/-- `ALPHA(t)`: all four bytes are letters (41_tag.md R135). -/
def tagAlpha (t : Tag) : Bool := alpha t.b0 && alpha t.b1 && alpha t.b2 && alpha t.b3

/-- `VALID(t) = ALPHA(t) and RSV(t)` (41_tag.md R136). -/
def tagValid (t : Tag) : Bool := tagAlpha t && tagRsv t

/-- `TFLAGS` of a tag: bit 0 CRIT, 1 PUB, 2 RSV, 3 SAFE, 4 ALPHA, 5 VALID, bits 7:6 zero (10_state.md R23). -/
def tagFlags (t : Tag) : Byte :=
  0#2 ++ BitVec.ofBool (tagValid t) ++ BitVec.ofBool (tagAlpha t) ++ BitVec.ofBool (tagSafe t) ++
    BitVec.ofBool (tagRsv t) ++ BitVec.ofBool (tagPub t) ++ BitVec.ofBool (tagCrit t)

/-- `STATUS`: bit 0 TV, bit 1 WV (W is some chunk), bit 2 FOUND, bits 7:3 zero (10_state.md R28). -/
def statusView (s : State) : Byte :=
  0#5 ++ BitVec.ofBool s.found ++ BitVec.ofBool s.w.isSome ++ BitVec.ofBool s.tv

end Sys2Proof.Machine
end

