-- ==== Sys2Proof/Machine/Frame.lean ====
section
/-! DEFINITION. The pure functions of the wire format (30_encoding.md R80 to R86): a chunk's derived quantities
(10_state.md R32), `ser`, `frame_check`, `chunk_parse` (42_chunk.md R152 to R154), and the container's `matches`,
`first_match`, `container_parse`, `cser` (43_container.md R180 to R190). -/

namespace Sys2Proof.Machine

/-- The bytes a checksum covers: tag, then payload (20_memory.md R65). -/
def chunkCovered (c : Chunk) : List Byte :=
  tagBytes c.tag ++ c.payload

/-- `checksum(c) = crc32(c.tag ++ c.payload)` (10_state.md R32), computed afresh whatever `ck` holds (R39; log
entry 8). -/
def chunkChecksum (c : Chunk) : Word :=
  crc32 (chunkCovered c)

/-- `footprint(c) = 12 + |c.payload|` (10_state.md R32). -/
def chunkFootprint (c : Chunk) : Nat :=
  12 + c.payload.length

/-- The sum of the footprints of a chunk sequence (10_state.md R36). -/
def storeFootprint (cs : List Chunk) : Nat :=
  (cs.map chunkFootprint).sum

/-- The chunk with its hidden cache filled (10_state.md R39). -/
def chunkCached (c : Chunk) : Chunk :=
  { c with ck := some (chunkChecksum c) }

/-- `ser(c)` (42_chunk.md R152). -/
def ser (c : Chunk) : List Byte :=
  be32 (reg32 c.payload.length) ++ tagBytes c.tag ++ c.payload ++ be32 (chunkChecksum c)

/-- `frame_check(f)`, for a sequence exactly one frame long (42_chunk.md R153): tag, then checksum. -/
def frameCheck (f : List Byte) : Except Err Chunk :=
  let len := (unbe32 (memRead f 0 4)).toNat
  let tag := tagOfBytes (memRead f 4 4)
  if tagAlpha tag then
    let pay := memRead f 8 len
    let exp := unbe32 (memRead f (8 + len) 4)
    let comp := crc32 (tagBytes tag ++ pay)
    if comp = exp then .ok ⟨tag, pay, some comp⟩ else .error (.checksumMismatch comp exp)
  else .error (.formatError .notAlphabetic)

/-- `chunk_parse(s)` (42_chunk.md R154): the length tests in exact naturals (00_scope.md R8), then `frame_check`. -/
def chunkParse (s : List Byte) : Except Err Chunk :=
  if s.length < 12 then .error (.truncatedInput s.length)
  else if s.length ≠ (unbe32 (memRead s 0 4)).toNat + 12 then
    .error (.sizeMismatch (unbe32 (memRead s 0 4)) s.length)
  else frameCheck s

/-- The frame loop of CT.PARSE (43_container.md R181) over the bytes `rest` that remain from offset `c`: the chunks, or
the offset of the first faulty frame with its error. The first argument bounds the turns; `|rest|` turns are enough,
since each takes at least 12 bytes (70_reset_and_hazards.md R251). -/
def parseFrames : Nat → List Byte → Nat → Except (Nat × Err) (List Chunk)
  | 0, _, _ => .ok []
  | turns + 1, rest, c =>
    if rest.isEmpty then .ok []
    else if rest.length < 12 then .error (c, .truncatedInput rest.length)
    else
      let size := (unbe32 (memRead rest 0 4)).toNat + 12
      if rest.length < size then .error (c, .sizeMismatch (unbe32 (memRead rest 0 4)) rest.length)
      else
        match frameCheck (rest.take size) with
        | .error e => .error (c, e)
        | .ok x =>
          match parseFrames turns (rest.drop size) (c + size) with
          | .error e => .error e
          | .ok xs => .ok (x :: xs)

/-- `container_parse` (43_container.md R181): signature, frames in stream order, then the capacities, 2 before 3. -/
def containerParse (p : Params) (s : List Byte) : Except (Nat × Err) (List Chunk) :=
  if s.length < 8 ∨ memRead s 0 8 ≠ p.sig.toList then .error (0, .badSignature)
  else
    match parseFrames s.length (s.drop 8) 8 with
    | .error e => .error e
    | .ok cs =>
      if cs.length > p.maxChunks then .error (s.length, .capacityExceeded .maxChunks)
      else if s.length - 8 > p.storeCap then .error (s.length, .capacityExceeded .storeCap)
      else .ok cs

/-- `matches(c, k)`: the four bytes are equal (43_container.md R180). -/
def chunkMatches (c : Chunk) (k : Tag) : Bool :=
  c.tag.b0 == k.b0 && c.tag.b1 == k.b1 && c.tag.b2 == k.b2 && c.tag.b3 == k.b3

/-- `first_match(S, k)`: the least matching position (43_container.md R185). -/
def firstMatch (cs : List Chunk) (k : Tag) : Option Nat :=
  cs.findIdx? fun c => chunkMatches c k

/-- `cser(S)`: the signature, then each chunk's serialization in order (43_container.md R190). -/
def cser (p : Params) (cs : List Chunk) : List Byte :=
  p.sig.toList ++ cs.flatMap ser

end Sys2Proof.Machine
end

