-- ==== Sys2Proof/Machine/Ops.lean ====
section
/-! DEFINITION. The named operations on the state: one writer per register or group, the commit of a successful
command (60_exceptions.md R217), raising an error (R216), and the tests for a missing operand (R213). -/

namespace Sys2Proof.Machine

/-- The outcome of a command or host action. -/
abbrev Result := Host.Outcome State Fault Refusal

/-- Write of the status group `ERR`, `EINFO0`, `EINFO1` (10_state.md R26). -/
def State.setStatus (s : State) (code : Byte) (info0 info1 : Word) : State :=
  { s with err := code, einfo0 := info0, einfo1 := info1 }

/-- Write of `T`, which sets `TV` (10_state.md R22). -/
def State.setTag (s : State) (t : Tag) : State :=
  { s with t := t, tv := true }

/-- Write of `RES` (10_state.md R24). -/
def State.setRes (s : State) (v : Word) : State :=
  { s with res := v }

/-- Write of `CRCACC` (10_state.md R25). -/
def State.setCrcacc (s : State) (v : Word) : State :=
  { s with crcacc := v }

/-- Write of `FOUND` and `IDX`, which go together (10_state.md R27, R31). -/
def State.setMatch (s : State) (found : Bool) (idx : Nat) : State :=
  { s with found := found, idx := reg32 idx }

/-- Write of `CUR` (10_state.md R30). -/
def State.setCur (s : State) (offset : Nat) : State :=
  { s with cur := reg32 offset }

/-- Write of `W` (10_state.md R33). -/
def State.setWork (s : State) (c : Option Chunk) : State :=
  { s with w := c }

/-- Write of `CS` (10_state.md R35). -/
def State.setStore (s : State) (cs : List Chunk) : State :=
  { s with cs := cs }

/-- `IBUF` replaced whole (10_state.md R37). -/
def State.setIbuf (s : State) (bytes : List Byte) : State :=
  { s with ibuf := bytes }

/-- `OBUF` replaced whole (10_state.md R38). -/
def State.setObuf (s : State) (bytes : List Byte) : State :=
  { s with obuf := bytes }

/-- The host's coming actions (log entry 1). -/
def State.setPending (s : State) (acts : List HostAction) : State :=
  { s with pending := acts }

/-- The host gets a value (log entry 6). -/
def State.observe (s : State) (o : Observation) : State :=
  { s with observed := o :: s.observed }

/-- A read took a free value (log entry 4). -/
def State.useFreeRead (s : State) : State :=
  { s with freeReads := s.freeReads + 1 }

/-- The sub-code of FormatError (60_exceptions.md R215). -/
def formatSubcode : FormatReason → Word
  | .notFourBytes => 1
  | .notAlphabetic => 2

/-- The sub-code of OperandMissing (60_exceptions.md R213). -/
def operandSubcode : Operand → Word
  | .tagRegister => 1
  | .workingChunk => 2

/-- The sub-code of CapacityExceeded (60_exceptions.md R214). -/
def capacitySubcode : Capacity → Word
  | .bufCap => 1
  | .maxChunks => 2
  | .storeCap => 3

/-- The code of an error kind (60_exceptions.md R211). -/
def errCode : Err → Byte
  | .formatError _ => 1
  | .truncatedInput _ => 2
  | .sizeMismatch _ _ => 3
  | .trailingBytes => 4
  | .checksumMismatch _ _ => 5
  | .badSignature => 6
  | .chunkNotFound _ => 7
  | .illegalCommand _ => 8
  | .operandMissing _ => 9
  | .capacityExceeded _ => 10

/-- `EINFO0` of an error (60_exceptions.md R215). -/
def errInfo0 : Err → Word
  | .formatError r => formatSubcode r
  | .truncatedInput n => reg32 n
  | .sizeMismatch len _ => len
  | .trailingBytes => 0
  | .checksumMismatch computed _ => computed
  | .badSignature => 0
  | .chunkNotFound key => tagWord key
  | .illegalCommand cw => (cw.extractLsb' 32 8).setWidth 32
  | .operandMissing o => operandSubcode o
  | .capacityExceeded c => capacitySubcode c

/-- `EINFO1` of an error (60_exceptions.md R215). -/
def errInfo1 : Err → Word
  | .formatError _ => 0
  | .truncatedInput _ => 0
  | .sizeMismatch _ n => reg32 n
  | .trailingBytes => 0
  | .checksumMismatch _ expected => expected
  | .badSignature => 0
  | .chunkNotFound _ => 0
  | .illegalCommand cw => cw.extractLsb' 0 32
  | .operandMissing _ => 0
  | .capacityExceeded _ => 0

/-- Taking an error, the PCE's form of an exception (60_exceptions.md R210, R216): the status group records it and the
command ends; the PCE takes the next command, so there is no handler and no return (R223). -/
def raise (e : Err) (s : State) : Result :=
  .next (s.setStatus (errCode e) (errInfo0 e) (errInfo1 e))

/-- The success commit (60_exceptions.md R217). -/
def complete (s : State) : Result :=
  .next (s.setStatus 0 0 0)

/-- A command that needs `T`: OperandMissing(1) while `TV = 0` (60_exceptions.md R213). -/
def withTag (s : State) (body : Tag → Result) : Result :=
  if s.tv then body s.t else raise (.operandMissing .tagRegister) s

/-- A command that needs `W`: OperandMissing(2) while `W = none` (60_exceptions.md R213). -/
def withChunk (s : State) (body : Chunk → Result) : Result :=
  match s.w with
  | some c => body c
  | none => raise (.operandMissing .workingChunk) s

end Sys2Proof.Machine
end

