-- ==== Sys2Proof/Machine/ChunkUnit.lean ====
section
/-! DEFINITION. The chunk unit's commands (42_chunk.md R151, R160 to R167). -/

namespace Sys2Proof.Machine

/-- NOP (42_chunk.md R151): clears the status group, nothing else. -/
def execNop (s : State) : Result :=
  complete s

/-- CH.BUILD (42_chunk.md R160): the tag is `T`, the payload all of IBUF; the cache stays empty. -/
def execChBuild (s : State) : Result :=
  withTag s fun t => complete (s.setWork (some ⟨t, memRead s.ibuf 0 s.ibuf.length, none⟩))

/-- CH.LEN (42_chunk.md R161). -/
def execChLen (s : State) : Result :=
  withChunk s fun c => complete (s.setRes (reg32 c.payload.length))

/-- CH.CRC (42_chunk.md R162). -/
def execChCrc (s : State) : Result :=
  withChunk s fun c => complete ((s.setWork (some (chunkCached c))).setRes (chunkChecksum c))

/-- CH.SER (42_chunk.md R164): `W` is not consumed. -/
def execChSer (s : State) : Result :=
  withChunk s fun c =>
    if 12 + c.payload.length > s.cfg.bufCap then raise (.capacityExceeded .bufCap) s
    else complete ((s.setWork (some (chunkCached c))).setObuf (ser c))

/-- CH.PARSE (42_chunk.md R163): all of IBUF is one frame; a failure leaves `W` and puts `CUR` to 0. -/
def execChParse (s : State) : Result :=
  match chunkParse (memRead s.ibuf 0 s.ibuf.length) with
  | .error e => raise e (s.setCur 0)
  | .ok c => complete ((s.setWork (some c)).setCur s.ibuf.length)

/-- CH.DATA (42_chunk.md R166). -/
def execChData (s : State) : Result :=
  withChunk s fun c => complete (s.setObuf c.payload)

/-- CH.TAG (42_chunk.md R167). -/
def execChTag (s : State) : Result :=
  withChunk s fun c => complete (s.setTag c.tag)

end Sys2Proof.Machine
end

