-- ==== Sys2Proof/Machine/ContainerUnit.lean ====
section
/-! DEFINITION. The container unit's commands (43_container.md R181, R184, R186, R188, R189). -/

namespace Sys2Proof.Machine

/-- CT.PARSE (43_container.md R181): a failure keeps `CS` whole and puts `CUR` to the failing frame's offset. -/
def execCtParse (s : State) : Result :=
  match containerParse s.cfg s.ibuf with
  | .error (c, e) => raise e (s.setCur c)
  | .ok cs => complete ((s.setStore cs).setCur s.ibuf.length)

/-- CT.APPEND (43_container.md R184): the chunk moves out of `W`. -/
def execCtAppend (s : State) : Result :=
  withChunk s fun c =>
    if s.cs.length + 1 > s.cfg.maxChunks then raise (.capacityExceeded .maxChunks) s
    else if storeFootprint s.cs + chunkFootprint c > s.cfg.storeCap then raise (.capacityExceeded .storeCap) s
    else complete ((s.setStore (s.cs ++ [c])).setWork none)

/-- CT.FIND k (43_container.md R186): the first match is copied into `W`; absence is no error and keeps `W`. -/
def execCtFind (k : Tag) (s : State) : Result :=
  match firstMatch s.cs k with
  | some i => complete ((s.setMatch true i).setWork s.cs[i]?)
  | none => complete (s.setMatch false s.cs.length)

/-- CT.REMOVE k (43_container.md R188): the first match moves into `W`; absence is ChunkNotFound. -/
def execCtRemove (k : Tag) (s : State) : Result :=
  match firstMatch s.cs k with
  | some i => complete (((s.setWork s.cs[i]?).setStore (s.cs.take i ++ s.cs.drop (i + 1))).setMatch true i)
  | none => raise (.chunkNotFound k) (s.setMatch false s.cs.length)

/-- CT.SER (43_container.md R189): `CS` keeps its chunks, their caches are filled. -/
def execCtSer (s : State) : Result :=
  if 8 + storeFootprint s.cs > s.cfg.bufCap then raise (.capacityExceeded .bufCap) s
  else complete ((s.setStore (s.cs.map chunkCached)).setObuf (cser s.cfg s.cs))

end Sys2Proof.Machine
end

