-- ==== Sys2Proof/Machine/CrcUnit.lean ====
section
/-! DEFINITION. The CRC unit's commands (40_crc.md R116 to R119). None can fail once decoded. -/

namespace Sys2Proof.Machine

/-- CRC.INIT (40_crc.md R116). -/
def execCrcInit (s : State) : Result :=
  complete (s.setCrcacc crcOnes)

/-- CRC.BYTE b (40_crc.md R117). -/
def execCrcByte (b : Byte) (s : State) : Result :=
  complete (s.setCrcacc (crcStep s.crcacc b))

/-- CRC.BUF (40_crc.md R118). -/
def execCrcBuf (s : State) : Result :=
  complete (s.setCrcacc (crcFeed s.crcacc s.ibuf))

/-- CRC.FINAL (40_crc.md R119). -/
def execCrcFinal (s : State) : Result :=
  complete (s.setRes (s.crcacc ^^^ crcOnes))

end Sys2Proof.Machine
end

