-- ==== Sys2Proof/Machine/TagUnit.lean ====
section
/-! DEFINITION. The tag unit's commands (41_tag.md R138, R139). -/

namespace Sys2Proof.Machine

/-- TAG.LOAD k (41_tag.md R138): cannot fail. -/
def execTagLoad (k : Tag) (s : State) : Result :=
  complete (s.setTag k)

/-- TAG.PARSE (41_tag.md R139): the length test before the alphabetic test; the reserved bit is not tested. -/
def execTagParse (s : State) : Result :=
  if s.ibuf.length ≠ 4 then raise (.formatError .notFourBytes) s
  else if tagAlpha (tagOfBytes (memRead s.ibuf 0 4)) then complete (s.setTag (tagOfBytes (memRead s.ibuf 0 4)))
  else raise (.formatError .notAlphabetic) s

end Sys2Proof.Machine
end

