-- ==== Sys2Proof/Machine/Dispatch.lean ====
section
/-! DEFINITION. One arm per command of 30_encoding.md R93, each a direct call of its meaning. -/

namespace Sys2Proof.Machine

/-- The command `i`, run to its end as one atomic step (00_scope.md R6). -/
def exec (i : Instr) (s : State) : Host.Outcome State Fault Refusal :=
  match i with
  | .nop => Sys2Proof.Machine.execNop s
  | .crcInit => Sys2Proof.Machine.execCrcInit s
  | .crcByte b => Sys2Proof.Machine.execCrcByte b s
  | .crcBuf => Sys2Proof.Machine.execCrcBuf s
  | .crcFinal => Sys2Proof.Machine.execCrcFinal s
  | .tagLoad k => Sys2Proof.Machine.execTagLoad k s
  | .tagParse => Sys2Proof.Machine.execTagParse s
  | .chBuild => Sys2Proof.Machine.execChBuild s
  | .chLen => Sys2Proof.Machine.execChLen s
  | .chCrc => Sys2Proof.Machine.execChCrc s
  | .chSer => Sys2Proof.Machine.execChSer s
  | .chParse => Sys2Proof.Machine.execChParse s
  | .chData => Sys2Proof.Machine.execChData s
  | .chTag => Sys2Proof.Machine.execChTag s
  | .ctParse => Sys2Proof.Machine.execCtParse s
  | .ctAppend => Sys2Proof.Machine.execCtAppend s
  | .ctFind k => Sys2Proof.Machine.execCtFind k s
  | .ctRemove k => Sys2Proof.Machine.execCtRemove k s
  | .ctSer => Sys2Proof.Machine.execCtSer s

end Sys2Proof.Machine
end

