-- ==== Sys2Proof/Machine/HostPort.lean ====
section
/-! DEFINITION. The host's actions (10_state.md R44): what `HostCmd`, `HostLoad`, `HostRead`, `HostReadOut` and `Reset`
do. -/

namespace Sys2Proof.Machine

/-- `HostCmd(cw)` (30_encoding.md R90): the command `cw` decodes to runs; an illegal word fails with IllegalCommand and
changes nothing else (60_exceptions.md R212). -/
def hostCmd (cw : CommandWord) (s : State) : Result :=
  match decode cw with
  | .ok i => exec i s
  | .error _ => raise (.illegalCommand cw) s

/-- `HostLoad(s)`: `IBUF <- s` and nothing else; it has no move when `|s| > BUF_CAP` (10_state.md R44, D2). -/
def hostLoad (bytes : List Byte) (s : State) : Result :=
  if bytes.length ≤ s.cfg.bufCap then .next (s.setIbuf bytes) else .refused .loadTooLong

/-- The reads whose value is unspecified: `T` and `TFLAGS` while `TV = 0` (10_state.md R23). -/
def readIsFree (n : Nat) (s : State) : Bool :=
  !s.tv && (n == 6 || n == 7)

/-- The value of register `n` of 10_state.md R41, zero-extended to 40 bits (log entry 6). `T` and `TFLAGS` read as a free
value while `TV = 0` (R23; log entry 4). -/
def registerValue (n : Nat) (s : State) : CommandWord :=
  match n with
  | 0 => 0
  | 1 => s.err.setWidth 40
  | 2 => s.einfo0.setWidth 40
  | 3 => s.einfo1.setWidth 40
  | 4 => (statusView s).setWidth 40
  | 5 => s.res.setWidth 40
  | 6 => (if s.tv then tagWord s.t else freeTagRead s.freeReads).setWidth 40
  | 7 => (if s.tv then tagFlags s.t else freeFlagsRead s.freeReads).setWidth 40
  | 8 => s.crcacc.setWidth 40
  | 9 => (reg32 s.ibuf.length).setWidth 40
  | 10 => (reg32 s.obuf.length).setWidth 40
  | 11 => s.cur.setWidth 40
  | 12 => s.idx.setWidth 40
  | 13 => (reg32 s.cs.length).setWidth 40
  | _ => 0

/-- `HostRead(n)` (10_state.md R41, R44): no precondition and no change of the PCE's state; the host gets the value. A
read with an unspecified value moves the model's count on, so that the next one is free of it (log entry 4). -/
def hostRead (n : Nat) (s : State) : Result :=
  .next ((if readIsFree n s then s.useFreeRead else s).observe (.register n (registerValue n s)))

/-- `HostReadOut()` (10_state.md R44): the host gets OBUF. -/
def hostReadOut (s : State) : Result :=
  .next (s.observe (.output s.obuf))

/-- `Reset` (70_reset_and_hazards.md R240, R241): every element at its value of 10_state.md R45; the parameters stay,
and so do the record of the host and the count of free values used, which are no state of the PCE. -/
def hostReset (s : State) : Result :=
  .next { State.resetWith s.cfg with
    pending := s.pending, observed := s.observed, freeReads := s.freeReads }

/-- One host action (10_state.md R44). -/
def hostAct (a : HostAction) (s : State) : Result :=
  match a with
  | .reset => hostReset s
  | .load bytes => hostLoad bytes s
  | .cmd cw => hostCmd cw s
  | .read n => hostRead n s
  | .readOut => hostReadOut s

/-- The state in which the host's next action is `HostCmd(cw)`. -/
def placeCommand (cw : CommandWord) (s : State) : State :=
  s.setPending (.cmd cw :: s.pending)

end Sys2Proof.Machine
end

