-- ==== Sys2Proof/Machine/Step.lean ====
section
/-! DEFINITION. One step is one host action (00_scope.md R6, R7; 20_memory.md R70). The PCE fetches nothing (10_state.md
R30): the host gives it the next action (log entry 1). -/

namespace Sys2Proof.Machine

/-- The host's oldest pending action happens; with none the PCE is idle and waits (70_reset_and_hazards.md R240). -/
def step (s : State) : Host.Outcome State Fault Refusal :=
  match s.pending with
  | [] => .next s
  | a :: rest => hostAct a (s.setPending rest)

/-- `s` with the command word `w` (bits numbered as the opcode table does, those above `nbits` zero) as the host's next
action (log entry 1). -/
def State.withFetchWord (s : State) (nbits w : Nat) : State :=
  placeCommand (BitVec.ofNat 40 (w % 2 ^ nbits)) s

end Sys2Proof.Machine
end

