-- ==== Sys2Proof/Machine/Macro.lean ====
section
/-! DEFINITION. The macros of 30_encoding.md R97: fixed sequences of commands and host actions, which stop at the first
command whose `ERR` is not 0. They are the host's, not the PCE's. -/

namespace Sys2Proof.Machine

/-- The host action that issues a command. -/
def issue (i : Instr) : HostAction :=
  .cmd (encode i)

/-- Whether a host action is a command: only a command can stop a macro. -/
def isCommand : HostAction → Bool
  | .reset => false
  | .load _ => false
  | .cmd _ => true
  | .read _ => false
  | .readOut => false

/-- Host actions in order, whatever each leaves in `ERR`; a refused action ends the run with its refusal. -/
def runActions : List HostAction → State → Result
  | [], s => .next s
  | a :: rest, s =>
    match hostAct a s with
    | .next t => runActions rest t
    | .fault r => .fault r
    | .refused r => .refused r

/-- A macro's actions in order, stopping after the first command that leaves `ERR` not 0 (30_encoding.md R97). -/
def runMacro : List HostAction → State → Result
  | [], s => .next s
  | a :: rest, s =>
    match hostAct a s with
    | .next t => if isCommand a && t.err != 0 then .next t else runMacro rest t
    | .fault r => .fault r
    | .refused r => .refused r

/-- `ENCODE file, tag, msg` (30_encoding.md R97). -/
def macroEncode (file tag msg : List Byte) : List HostAction :=
  [.load file, issue .ctParse, .load tag, issue .tagParse, .load msg, issue .chBuild, issue .ctAppend, issue .ctSer,
   .readOut]

/-- `REMOVE file, key` (30_encoding.md R97); the removed chunk is in `W`. -/
def macroRemove (file : List Byte) (key : Tag) : List HostAction :=
  [.load file, issue .ctParse, issue (.ctRemove key), issue .ctSer, .readOut]

/-- The nearest to `INSPECT file` (30_encoding.md R97): printing is out of scope (00_scope.md R4). -/
def macroInspect (file : List Byte) : List HostAction :=
  [.load file, issue .ctParse, .read 13]

/-- `DECODE file, key` (30_encoding.md R97): the payload is read out only if `FOUND = 1`. -/
def runDecode (file : List Byte) (key : Tag) (s : State) : Result :=
  match runMacro [.load file, issue .ctParse, issue (.ctFind key), .read 4] s with
  | .next t => if t.err == 0 && t.found then runMacro [issue .chData, .readOut] t else .next t
  | .fault r => .fault r
  | .refused r => .refused r

end Sys2Proof.Machine
end

