-- ==== Sys2Proof/Machine/Assembler.lean ====
section
/-! DEFINITION. The assembler lines of 30_encoding.md R96: one command or host action a line, `;` starts a comment.
The text is a list of characters. -/

namespace Sys2Proof.Machine

/-- A word, or a quoted string without its quotes. -/
inductive Token where
  | word (chars : List Char)
  | quoted (chars : List Char)
deriving DecidableEq, Repr

/-- Where the reader of a line stands: between tokens, in a word, in a quoted string. -/
inductive LexMode where
  | gap
  | word
  | quoted
deriving DecidableEq, Repr

/-- The tokens of a line: blanks separate, `;` outside quotes ends the line, a string left open is no line (log entry
14). The second argument is the token so far, last character first. -/
def lexLine : LexMode → List Char → List Char → Option (List Token)
  | .gap, _, [] => some []
  | .word, acc, [] => some [.word acc.reverse]
  | .quoted, _, [] => none
  | .gap, _, c :: cs =>
    if c = ' ' ∨ c = '\t' then lexLine .gap [] cs
    else if c = ';' then some []
    else if c = '"' then lexLine .quoted [] cs
    else lexLine .word [c] cs
  | .word, acc, c :: cs =>
    if c = ' ' ∨ c = '\t' then (lexLine .gap [] cs).map (Token.word acc.reverse :: ·)
    else if c = ';' then some [.word acc.reverse]
    else lexLine .word (c :: acc) cs
  | .quoted, acc, c :: cs =>
    if c = '"' then (lexLine .gap [] cs).map (Token.quoted acc.reverse :: ·)
    else lexLine .quoted (c :: acc) cs

/-- The value of a hexadecimal digit. -/
def hexDigit (c : Char) : Option Nat :=
  if '0'.toNat ≤ c.toNat ∧ c.toNat ≤ '9'.toNat then some (c.toNat - '0'.toNat)
  else if 'A'.toNat ≤ c.toNat ∧ c.toNat ≤ 'F'.toNat then some (c.toNat - 'A'.toNat + 10)
  else if 'a'.toNat ≤ c.toNat ∧ c.toNat ≤ 'f'.toNat then some (c.toNat - 'a'.toNat + 10)
  else none

/-- A run of digits in a base, most significant first; `acc` is the value so far. -/
def digitsValue (base : Nat) : Nat → List Char → Option Nat
  | acc, [] => some acc
  | acc, c :: cs =>
    match hexDigit c with
    | some d => if d < base then digitsValue base (acc * base + d) cs else none
    | none => none

/-- A hexadecimal number written with `0x`. -/
def hexNumber : List Char → Option Nat
  | '0' :: 'x' :: c :: cs => digitsValue 16 0 (c :: cs)
  | _ => none

/-- A byte operand, hex or decimal (R96). -/
def byteOperand (t : Token) : Option Byte :=
  match t with
  | .word (c :: cs) =>
    match (hexNumber (c :: cs)).or (digitsValue 10 0 (c :: cs)) with
    | some v => if v < 256 then some (BitVec.ofNat 8 v) else none
    | none => none
  | .word [] => none
  | .quoted _ => none

/-- The bytes of a quoted ASCII string, each below 128 (R96). -/
def asciiBytes : List Char → Option (List Byte)
  | [] => some []
  | c :: cs => if c.toNat < 128 then (asciiBytes cs).map (BitVec.ofNat 8 c.toNat :: ·) else none

/-- A tag operand: a quoted string of exactly 4 bytes or a 32-bit hex number (R96). -/
def tagOperand (t : Token) : Option Tag :=
  match t with
  | .quoted cs =>
    match asciiBytes cs with
    | some [a, b, c, d] => some ⟨a, b, c, d⟩
    | _ => none
  | .word cs =>
    match hexNumber cs with
    | some v => if v < 2 ^ 32 then some (tagOfWord (BitVec.ofNat 32 v)) else none
    | none => none

/-- Bytes written as hex pairs (R96). -/
def hexPairs : List Token → Option (List Byte)
  | [] => some []
  | .word [a, b] :: rest =>
    match digitsValue 16 0 [a, b], hexPairs rest with
    | some v, some bytes => some (BitVec.ofNat 8 v :: bytes)
    | _, _ => none
  | _ => none

/-- The bytes of a `LOAD`: one quoted string or hex pairs, a blank after each pair (R96). DESIGN CHOICE: R96 does not say
how the empty sequence is written; a `LOAD` with nothing after it and `LOAD ""` are the empty load, and `LOAD []`, as
95_test_vectors.md writes it, is no line (log entry 14). -/
def loadOperand : List Token → Option (List Byte)
  | [.quoted cs] => asciiBytes cs
  | ts => hexPairs ts

/-- The mnemonics of the commands without an operand (R93). -/
def plainMnemonics : List (List Char × Instr) :=
  [("NOP".toList, .nop), ("CRC.INIT".toList, .crcInit), ("CRC.BUF".toList, .crcBuf), ("CRC.FINAL".toList, .crcFinal),
   ("TAG.PARSE".toList, .tagParse), ("CH.BUILD".toList, .chBuild), ("CH.LEN".toList, .chLen),
   ("CH.CRC".toList, .chCrc), ("CH.SER".toList, .chSer), ("CH.PARSE".toList, .chParse), ("CH.DATA".toList, .chData),
   ("CH.TAG".toList, .chTag), ("CT.PARSE".toList, .ctParse), ("CT.APPEND".toList, .ctAppend),
   ("CT.SER".toList, .ctSer)]

/-- The register names of 10_state.md R41, in the order of their numbers. -/
def registerNames : List (List Char) :=
  ["CMD".toList, "ERR".toList, "EINFO0".toList, "EINFO1".toList, "STATUS".toList, "RES".toList, "T".toList,
   "TFLAGS".toList, "CRCACC".toList, "ILEN".toList, "OLEN".toList, "CUR".toList, "IDX".toList, "NCH".toList]

/-- The register number a `READ` names (R96, 10_state.md R41). -/
def readOperand (t : Token) : Option Nat :=
  match t with
  | .word name => registerNames.idxOf? name
  | .quoted _ => none

/-- The command of a mnemonic with one operand (R93, R96). -/
def operandCommand (name : List Char) (t : Token) : Option Instr :=
  if name = "CRC.BYTE".toList then (byteOperand t).map .crcByte
  else if name = "TAG.LOAD".toList then (tagOperand t).map .tagLoad
  else if name = "CT.FIND".toList then (tagOperand t).map .ctFind
  else if name = "CT.REMOVE".toList then (tagOperand t).map .ctRemove
  else none

/-- The action of a line that begins with `name` and goes on with `ts` (R96); none when it is no command or action. -/
def assembleTokens (name : List Char) (ts : List Token) : Option HostAction :=
  if name = "LOAD".toList then (loadOperand ts).map .load
  else
    match ts with
    | [] =>
      if name = "RESET".toList then some .reset
      else if name = "READOUT".toList then some .readOut
      else (plainMnemonics.lookup name).map issue
    | [t] => if name = "READ".toList then (readOperand t).map .read else (operandCommand name t).map issue
    | _ :: _ :: _ => none

/-- The actions of one line: none of them on a blank or comment line, one otherwise (R96). -/
def assembleLine (line : List Char) : Option (List HostAction) :=
  match lexLine .gap [] line with
  | some [] => some []
  | some (.word name :: ts) => (assembleTokens name ts).map fun a => [a]
  | some (.quoted _ :: _) => none
  | none => none

end Sys2Proof.Machine
end

