-- ==== Sys2Proof/Machine/ByteSerial.lean ====
section
/-! DEFINITION. The byte-serial frame parser of 70_reset_and_hazards.md R253, which takes one byte a turn. R253 is
informative: CT.PARSE and CH.PARSE are defined by Machine/Frame.lean, and that the two agree is a statement. -/

namespace Sys2Proof.Machine

/-- The phases of R253; `failed` holds the offset of the failing frame. FRAME is passed through on entry. -/
inductive Phase where
  | sig
  | len
  | tag
  | pay
  | cks
  | done
  | failed (offset : Nat) (e : Err)
deriving DecidableEq, Repr

/-- The machine between two bytes: phase, frame cursor `c`, bytes counted in the phase `k`, and what the frame has
given so far. -/
structure Serial where
  phase    : Phase
  c        : Nat
  k        : Nat
  len      : Nat
  tag      : List Byte
  pay      : List Byte
  acc      : Word
  expected : Nat
  chunks   : List Chunk
deriving DecidableEq, Repr

/-- Entry to FRAME at cursor `c`: DONE at the end of the input, TruncatedInput below 12 bytes, else LEN. -/
def serialEnter (n : Nat) (m : Serial) : Serial :=
  if m.c = n then { m with phase := .done }
  else if n - m.c < 12 then { m with phase := .failed m.c (.truncatedInput (n - m.c)) }
  else { m with phase := .len, k := 0, len := 0, tag := [], pay := [] }

/-- A byte in phase SIG. -/
def serialSig (p : Params) (n : Nat) (m : Serial) (b : Byte) : Serial :=
  if p.sig.toList.getD m.k 0 = b then
    if m.k = 7 then serialEnter n { m with c := 8 } else { m with k := m.k + 1 }
  else { m with phase := .failed 0 .badSignature }

/-- A byte in phase LEN; `fits` is the length test made after the fourth byte. -/
def serialLen (fits : Nat → Bool) (n : Nat) (m : Serial) (b : Byte) : Serial :=
  let len := m.len * 256 + b.toNat
  if m.k = 3 then
    if fits len then { m with phase := .tag, k := 0, len := len, acc := crcOnes }
    else { m with phase := .failed m.c (.sizeMismatch (reg32 len) (n - m.c)) }
  else { m with k := m.k + 1, len := len }

/-- Entry to CKS. -/
def serialCks (m : Serial) : Serial :=
  { m with phase := .cks, k := 0, expected := 0 }

/-- A byte in phase TAG. -/
def serialTag (m : Serial) (b : Byte) : Serial :=
  if alpha b then
    let m' := { m with tag := m.tag ++ [b], acc := crcStep m.acc b, k := m.k + 1 }
    if m.k = 3 then (if m.len = 0 then serialCks m' else { m' with phase := .pay, k := 0 }) else m'
  else { m with phase := .failed m.c (.formatError .notAlphabetic) }

/-- A byte in phase PAY. -/
def serialPay (m : Serial) (b : Byte) : Serial :=
  let m' := { m with pay := m.pay ++ [b], acc := crcStep m.acc b, k := m.k + 1 }
  if m.k + 1 = m.len then serialCks m' else m'

/-- A byte in phase CKS; `next` is what follows a good frame. -/
def serialSum (next : Serial → Serial) (m : Serial) (b : Byte) : Serial :=
  let expected := m.expected * 256 + b.toNat
  if m.k = 3 then
    let comp := m.acc ^^^ crcOnes
    if comp = reg32 expected then
      next { m with c := m.c + 12 + m.len, chunks := m.chunks ++ [⟨tagOfBytes m.tag, m.pay, some comp⟩] }
    else { m with phase := .failed m.c (.checksumMismatch comp (reg32 expected)) }
  else { m with k := m.k + 1, expected := expected }

/-- One byte of a container of `n` bytes. -/
def serialByte (p : Params) (n : Nat) (m : Serial) (b : Byte) : Serial :=
  match m.phase with
  | .sig => serialSig p n m b
  | .len => serialLen (fun len => decide (len + 12 ≤ n - m.c)) n m b
  | .tag => serialTag m b
  | .pay => serialPay m b
  | .cks => serialSum (serialEnter n) m b
  | .done => m
  | .failed _ _ => m

/-- One byte of a single frame of `n` bytes: no SIG phase, the length test is equality, DONE after the frame. -/
def serialFrameByte (n : Nat) (m : Serial) (b : Byte) : Serial :=
  match m.phase with
  | .sig => m
  | .len => serialLen (fun len => decide (n = len + 12)) n m b
  | .tag => serialTag m b
  | .pay => serialPay m b
  | .cks => serialSum (fun m' => { m' with phase := .done }) m b
  | .done => m
  | .failed _ _ => m

/-- The machine before its first byte. -/
def serialStart (phase : Phase) : Serial :=
  { phase := phase, c := 0, k := 0, len := 0, tag := [], pay := [], acc := crcOnes, expected := 0, chunks := [] }

/-- CT.PARSE byte by byte (R253): the capacity tests come after the last byte. -/
def containerParseSerial (p : Params) (s : List Byte) : Except (Nat × Err) (List Chunk) :=
  let m := s.foldl (serialByte p s.length)
    (serialStart (if s.length < 8 then .failed 0 .badSignature else .sig))
  match m.phase with
  | .failed c e => .error (c, e)
  | _ =>
    if m.chunks.length > p.maxChunks then .error (s.length, .capacityExceeded .maxChunks)
    else if s.length - 8 > p.storeCap then .error (s.length, .capacityExceeded .storeCap)
    else .ok m.chunks

/-- CH.PARSE byte by byte (R253); an empty input is too short (42_chunk.md R154 governs). -/
def chunkParseSerial (s : List Byte) : Except Err (List Chunk) :=
  let m := s.foldl (serialFrameByte s.length)
    (serialStart (if s.length < 12 then .failed 0 (.truncatedInput s.length) else .len))
  match m.phase with
  | .failed _ e => .error e
  | _ => .ok m.chunks

/-- The serializer byte by byte (R253): tag and payload are written while the accumulator runs over them. -/
def serSerial (c : Chunk) : List Byte :=
  let body := (tagBytes c.tag ++ c.payload).foldl (fun (m : List Byte × Word) b => (m.1 ++ [b], crcStep m.2 b))
    (be32 (reg32 c.payload.length), crcOnes)
  body.1 ++ be32 (body.2 ^^^ crcOnes)

end Sys2Proof.Machine
end

