-- ==== Sys2Proof/Safety.lean ====
section
/-! DEFINITION. The terms in which claims are made: the invariant of a safe run (10_state.md R32, R36 to R39), what the
host can see, what no visible value depends on, and which command writes or raises what (R43, 60_exceptions.md R219). -/

namespace Sys2Proof.Machine

/-- The buffers are within their capacity (10_state.md R37, R38). A buffer is a list of bytes, so equal buffers are
equal data with no further condition (log entry 7). -/
abbrev Memory.wf (s : State) : Prop :=
  s.ibuf.length ≤ s.cfg.bufCap ∧ s.obuf.length ≤ s.cfg.bufCap

/-- `ck = some v` only for the chunk's own checksum (10_state.md R39). -/
abbrev CacheTrue (c : Chunk) : Prop :=
  c.ck = none ∨ c.ck = some (chunkChecksum c)

/-- A chunk the PCE can hold: its payload is within `BUF_CAP` (10_state.md R32) and its cache is true (R39). -/
abbrev ChunkOk (p : Params) (c : Chunk) : Prop :=
  c.payload.length ≤ p.bufCap ∧ CacheTrue c

/-- The capacity invariant of the store (10_state.md R36). -/
abbrev StoreFits (s : State) : Prop :=
  s.cs.length ≤ s.cfg.maxChunks ∧ storeFootprint s.cs ≤ s.cfg.storeCap

/-- `ERR` holds a code of 60_exceptions.md R211 that a command can raise: at most 10 and not TrailingBytes. -/
abbrev ErrCodeLegal (s : State) : Prop :=
  s.err.toNat ≤ 10 ∧ s.err ≠ 4

/-- The cursors are offsets and positions that exist (10_state.md R30, R31). -/
abbrev CursorsFit (s : State) : Prop :=
  s.cur.toNat ≤ s.cfg.bufCap ∧ s.idx.toNat ≤ s.cfg.maxChunks

/-- The invariant of every reachable state. -/
abbrev State.Inv (s : State) : Prop :=
  s.cfg.wf = true ∧ Memory.wf s ∧ (∀ c ∈ s.w, ChunkOk s.cfg c) ∧ (∀ c ∈ s.cs, ChunkOk s.cfg c) ∧ StoreFits s ∧
    ErrCodeLegal s ∧ CursorsFit s

/-- The next state, if the outcome is one. -/
def nextState? : Result → Option State
  | .next s => some s
  | .fault _ => none
  | .refused _ => none

/-- A function applied to the next state of an outcome. -/
def mapNext (f : State → State) : Result → Result
  | .next s => .next (f s)
  | .fault r => .fault r
  | .refused r => .refused r

/-- The chunk without its hidden cache: two chunks are equal in the sense of 10_state.md R34 when these are equal. -/
def eraseCache (c : Chunk) : Chunk :=
  { c with ck := none }

/-- The state with every hidden cache emptied (10_state.md R39). -/
def eraseCaches (s : State) : State :=
  { s with w := s.w.map eraseCache, cs := s.cs.map eraseCache }

/-- The state with `T` set to a fixed value while `TV = 0`, when its content is unspecified (10_state.md R22). -/
def eraseUnsetTag (s : State) : State :=
  { s with t := if s.tv then s.t else ⟨0, 0, 0, 0⟩ }

/-- The byte of a buffer at an offset; none at or past its length (20_memory.md R60). -/
def byteAt (buf : List Byte) (a : Nat) : Option Byte :=
  buf[a]?

/-- Opcode `op` is a format N command (30_encoding.md R89 to R91): with operand 0 the word runs `i`, with any other it is
illegal (60_exceptions.md R212). -/
def RunsN (op : Byte) (i : Instr) : Prop :=
  ∀ (s : State) (arg : Word), hostCmd (op ++ arg) s =
    if arg = 0 then exec i s else .next { s with err := 8, einfo0 := op.setWidth 32, einfo1 := arg }

/-- Opcode `op` is a format B command: the word runs `i` on its low byte, and with anything in `arg[31:8]` it is
illegal. -/
def RunsB (op : Byte) (i : Byte → Instr) : Prop :=
  ∀ (s : State) (arg : Word), hostCmd (op ++ arg) s =
    if arg.extractLsb' 8 24 = 0 then exec (i (arg.extractLsb' 0 8)) s
    else .next { s with err := 8, einfo0 := op.setWidth 32, einfo1 := arg }

/-- Opcode `op` is a format K command: every operand is legal, its most significant byte the key's first. -/
def RunsK (op : Byte) (i : Tag → Instr) : Prop :=
  ∀ (s : State) (arg : Word), hostCmd (op ++ arg) s =
    exec (i ⟨arg.extractLsb' 24 8, arg.extractLsb' 16 8, arg.extractLsb' 8 8, arg.extractLsb' 0 8⟩) s

/-- Which command can leave which code in `ERR`: column by column the matrix of 60_exceptions.md R219, IllegalCommand
apart, which is decided before any command is chosen. -/
def canRaise : Instr → Byte → Bool
  | .nop, _ => false
  | .crcInit, _ => false
  | .crcByte _, _ => false
  | .crcBuf, _ => false
  | .crcFinal, _ => false
  | .tagLoad _, _ => false
  | .tagParse, e => e == 1
  | .chBuild, e => e == 9
  | .chLen, e => e == 9
  | .chCrc, e => e == 9
  | .chSer, e => e == 9 || e == 10
  | .chParse, e => e == 1 || e == 2 || e == 3 || e == 5
  | .chData, e => e == 9
  | .chTag, e => e == 9
  | .ctParse, e => e == 1 || e == 2 || e == 3 || e == 5 || e == 6 || e == 10
  | .ctAppend, e => e == 9 || e == 10
  | .ctFind _, _ => false
  | .ctRemove _, e => e == 7
  | .ctSer, e => e == 10

/-- The elements of state a command can read or write (10_state.md R43). A chunk's hidden cache counts apart from the
chunk, as the table counts it. -/
inductive Element where
  | tag
  | res
  | crcacc
  | found
  | idx
  | cur
  | work
  | workCache
  | store
  | storeCaches
  | input
  | output
deriving DecidableEq, Repr

/-- Two states hold the same in an element; a buffer is compared byte for byte. -/
def Same (e : Element) (s t : State) : Prop :=
  match e with
  | .tag => t.t = s.t ∧ t.tv = s.tv
  | .res => t.res = s.res
  | .crcacc => t.crcacc = s.crcacc
  | .found => t.found = s.found
  | .idx => t.idx = s.idx
  | .cur => t.cur = s.cur
  | .work => t.w.map eraseCache = s.w.map eraseCache
  | .workCache => t.w.map Chunk.ck = s.w.map Chunk.ck
  | .store => t.cs.map eraseCache = s.cs.map eraseCache
  | .storeCaches => t.cs.map Chunk.ck = s.cs.map Chunk.ck
  | .input => ∀ a, byteAt t.ibuf a = byteAt s.ibuf a
  | .output => ∀ a, byteAt t.obuf a = byteAt s.obuf a

/-- The column "writes on success" of 10_state.md R43, the status group apart. -/
def writesOnSuccess : Instr → List Element
  | .nop => []
  | .crcInit => [.crcacc]
  | .crcByte _ => [.crcacc]
  | .crcBuf => [.crcacc]
  | .crcFinal => [.res]
  | .tagLoad _ => [.tag]
  | .tagParse => [.tag]
  | .chBuild => [.work, .workCache]
  | .chLen => [.res]
  | .chCrc => [.res, .workCache]
  | .chSer => [.output, .workCache]
  | .chParse => [.work, .workCache, .cur]
  | .chData => [.output]
  | .chTag => [.tag]
  | .ctParse => [.store, .storeCaches, .cur]
  | .ctAppend => [.store, .storeCaches, .work, .workCache]
  | .ctFind _ => [.found, .idx, .work, .workCache]
  | .ctRemove _ => [.store, .storeCaches, .work, .workCache, .found, .idx]
  | .ctSer => [.output, .storeCaches]

/-- The column "writes on failure" of 10_state.md R43, the status group apart. -/
def writesOnFailure : Instr → List Element
  | .nop => []
  | .crcInit => []
  | .crcByte _ => []
  | .crcBuf => []
  | .crcFinal => []
  | .tagLoad _ => []
  | .tagParse => []
  | .chBuild => []
  | .chLen => []
  | .chCrc => []
  | .chSer => []
  | .chParse => [.cur]
  | .chData => []
  | .chTag => []
  | .ctParse => [.cur]
  | .ctAppend => []
  | .ctFind _ => []
  | .ctRemove _ => [.found, .idx]
  | .ctSer => []

/-- The column "reads" of 10_state.md R43, the parameters apart. A command that hands a chunk on hands its hidden cache
on with it. -/
def readsOf : Instr → List Element
  | .nop => []
  | .crcInit => []
  | .crcByte _ => [.crcacc]
  | .crcBuf => [.crcacc, .input]
  | .crcFinal => [.crcacc]
  | .tagLoad _ => []
  | .tagParse => [.input]
  | .chBuild => [.tag, .input]
  | .chLen => [.work]
  | .chCrc => [.work]
  | .chSer => [.work]
  | .chParse => [.input]
  | .chData => [.work]
  | .chTag => [.work]
  | .ctParse => [.input]
  | .ctAppend => [.work, .workCache, .store, .storeCaches]
  | .ctFind _ => [.store, .storeCaches]
  | .ctRemove _ => [.store, .storeCaches]
  | .ctSer => [.store]

/-- The bytes that one host action feeds to the CRC accumulator (40_crc.md R117, R118). -/
def feeds (a : HostAction) (s : State) : List Byte :=
  match a with
  | .cmd cw =>
    match decode cw with
    | .ok (.crcByte b) => [b]
    | .ok .crcBuf => s.ibuf
    | .ok _ => []
    | .error _ => []
  | .reset => []
  | .load _ => []
  | .read _ => []
  | .readOut => []

/-- The bytes that a run of host actions feeds to the CRC accumulator, in order (40_crc.md R120). -/
def fedBytes : List HostAction → State → List Byte
  | [], _ => []
  | a :: rest, s =>
    feeds a s ++
      match hostAct a s with
      | .next t => fedBytes rest t
      | .fault _ => []
      | .refused _ => []

/-- An action that starts the accumulator anew: `Reset` or CRC.INIT (40_crc.md R116, R248 of 70_reset_and_hazards.md). -/
def restartsCrc (a : HostAction) : Bool :=
  match a with
  | .reset => true
  | .cmd cw =>
    match decode cw with
    | .ok .crcInit => true
    | .ok _ => false
    | .error _ => false
  | .load _ => false
  | .read _ => false
  | .readOut => false

end Sys2Proof.Machine
end

