-- ==== Sys2Proof/Certificates/Slice0/Obligations.lean ====
section
/-! DEFINITION. The statements for the provers, drawn from the spec's numbered rules. Where a statement gives a next
state it gives all of it, so it is also the command's frame and says where the command completes. -/

open Sys2Proof Sys2Proof.Machine

/-! ### Command words (30_encoding.md) -/

/-- Decode gives back the command a word was made from, with every operand (R89, R91, R92). -/
def Obligations.DecodeEncodeRoundTrip : Prop :=
  ∀ i : Instr, decode (encode i) = .ok i

/-- A word that decodes is the word of its command: no bit of it is dropped (R90, R91). -/
def Obligations.EncodeDecodeRoundTrip : Prop :=
  ∀ (cw : CommandWord) (i : Instr), decode cw = .ok i → encode i = cw

/-- Decode accepts exactly the words that select a row of the opcode map by match and mask, and no word selects two rows
(R90, R93). -/
def Obligations.DecodeIsTheOpcodeMap : Prop :=
  (∀ cw : CommandWord, (∃ i, decode cw = .ok i) ↔ wellFormedWord cw = true) ∧
  opcodeTable.Pairwise fun r r' => ∀ cw, ¬ (r.selects cw = true ∧ r'.selects cw = true)

/-- Words written out from the opcode map decode to the commands they stand for (R92, R93). -/
def Obligations.CommandWordsDecode : Prop :=
  decode 0x0000000000 = .ok .nop ∧ decode 0x1000000000 = .ok .crcInit ∧
  decode 0x1100000052 = .ok (.crcByte 0x52) ∧ decode 0x2052755374 = .ok (.tagLoad ⟨0x52, 0x75, 0x53, 0x74⟩) ∧
  decode 0x3400000000 = .ok .chParse ∧ decode 0x4000000000 = .ok .ctParse ∧
  decode 0x4252755374 = .ok (.ctFind ⟨0x52, 0x75, 0x53, 0x74⟩)

/-! ### Steps and host actions (10_state.md R40 to R45, 60_exceptions.md R212) -/

/-- A step whose pending action is a command word that decodes to `i` is `exec i`, the action taken off the list (R90;
the list is the model's, log entry 1). -/
def Obligations.StepRunsTheDecodedCommand : Prop :=
  ∀ (s : State) (cw : CommandWord) (rest : List HostAction) (i : Instr),
    s.pending = .cmd cw :: rest → decode cw = .ok i → step s = exec i { s with pending := rest }

/-- The very next step runs the command whose word is placed, and nothing else of the state is changed by placing it
(log entry 1). -/
def Obligations.StepRunsThePlacedWord : Prop :=
  ∀ (s : State) (i : Instr), decodeTableWord 40 (encode i).toNat = some i ∧
    step (s.withFetchWord 40 (encode i).toNat) = exec i s

/-- A word that selects no row fails with IllegalCommand, its opcode in `EINFO0` and its operand in `EINFO1`; nothing else
changes (R212). -/
def Obligations.IllegalWordFailsAlone : Prop :=
  ∀ (s : State) (cw : CommandWord), wellFormedWord cw = false →
    hostCmd cw s = .next { s with err := 8, einfo0 := (cw.extractLsb' 32 8).setWidth 32,
                                  einfo1 := cw.extractLsb' 0 32 }

/-- The five host actions, each with its whole effect (R44). Where a `HostLoad` has no move the model refuses (log entry
5). The model's own, and no rule of the spec: the list of pending actions (log entry 1), that the parameters lie in the
state (log entry 2), the four zero bytes that Reset leaves in `T`, which R45 leaves unspecified (log entry 3), that a read
with an unspecified value takes a free value and counts it (log entry 4), and the record of reads (log entry 6). -/
def Obligations.HostActionsFollowTheTable : Prop :=
  ∀ (s : State) (a : HostAction) (rest : List HostAction), s.pending = a :: rest →
    match a with
    | .reset => step s = .next { State.resetWith s.cfg with
        pending := rest, observed := s.observed, freeReads := s.freeReads }
    | .load bytes =>
      (bytes.length ≤ s.cfg.bufCap → step s = .next { s with pending := rest, ibuf := bytes }) ∧
      (s.cfg.bufCap < bytes.length → step s = .refused .loadTooLong)
    | .cmd cw =>
      (∀ i, decode cw = .ok i → step s = exec i { s with pending := rest }) ∧
      (wellFormedWord cw = false → step s = raise (.illegalCommand cw) { s with pending := rest })
    | .read n => step s = .next { s with
        pending := rest, observed := .register n (registerValue n s) :: s.observed,
        freeReads := if (n = 6 ∨ n = 7) ∧ s.tv = false then s.freeReads + 1 else s.freeReads }
    | .readOut => step s = .next { s with pending := rest, observed := .output s.obuf :: s.observed }

/-- With no host action pending the PCE is idle: the step changes nothing (70_reset_and_hazards.md R240; that idling is a
step is the model's choice, log entry 1). `HostRead` has no precondition (R44): a read of `T` or `TFLAGS` while `TV = 0`
answers too, with some value of the register's width (R23; the record, the zero-extension and the free value with its count
are the model's, log entries 4 and 6). Every step answers a next state but that of a `HostLoad` longer than `BUF_CAP`
(93_implementation_defined.md Part 1; the refusal is log entry 5). -/
def Obligations.OnlyAnOverlongLoadIsRefused : Prop :=
  (∀ s : State, s.pending = [] → step s = .next s) ∧
  (∀ (s : State) (n : Nat) (rest : List HostAction), s.pending = .read n :: rest → (n = 6 ∨ n = 7) → s.tv = false →
    ∃ v : CommandWord, v.toNat < (if n = 6 then 2 ^ 32 else 2 ^ 8) ∧
      step s = .next { s with
        pending := rest, observed := .register n v :: s.observed, freeReads := s.freeReads + 1 }) ∧
  (∀ s : State, (∃ t, step s = .next t) ↔
    ¬ ∃ bytes rest, s.pending = .load bytes :: rest ∧ s.cfg.bufCap < bytes.length)

/-- What each register number reads as (R41), and the bits of `STATUS` (R28); that a value is zero-extended to 40 bits is
the model's choice (log entry 6). While `TV = 0` the reads of `T` and `TFLAGS` are free but for the register's width (R23;
log entry 4). -/
def Obligations.RegisterNumbersRead : Prop :=
  (∀ s : State,
    registerValue 0 s = 0 ∧ registerValue 1 s = s.err.setWidth 40 ∧
    registerValue 2 s = s.einfo0.setWidth 40 ∧ registerValue 3 s = s.einfo1.setWidth 40 ∧
    registerValue 4 s = (statusView s).setWidth 40 ∧ registerValue 5 s = s.res.setWidth 40 ∧
    (s.tv = true → registerValue 6 s = (unbe32 (tagBytes s.t)).setWidth 40 ∧
      registerValue 7 s = (tagFlags s.t).setWidth 40) ∧
    (s.tv = false → (registerValue 6 s).toNat < 2 ^ 32 ∧ (registerValue 7 s).toNat < 2 ^ 8) ∧
    registerValue 8 s = s.crcacc.setWidth 40 ∧
    registerValue 9 s = (BitVec.ofNat 32 s.ibuf.length).setWidth 40 ∧
    registerValue 10 s = (BitVec.ofNat 32 s.obuf.length).setWidth 40 ∧
    registerValue 11 s = s.cur.setWidth 40 ∧ registerValue 12 s = s.idx.setWidth 40 ∧
    registerValue 13 s = (BitVec.ofNat 32 s.cs.length).setWidth 40 ∧
    (∀ n, 13 < n → registerValue n s = 0)) ∧
  (∀ s : State, (statusView s).getLsbD 0 = s.tv ∧ ((statusView s).getLsbD 1 = true ↔ ∃ c, s.w = some c) ∧
    (statusView s).getLsbD 2 = s.found ∧ (∀ j, 3 ≤ j → (statusView s).getLsbD j = false))

/-- After `Reset`, from any state, every element has its value of R45, `T` apart, which R45 leaves unspecified, and the
parameters are as before (R240, R241). -/
def Obligations.ResetActionGivesResetValues : Prop :=
  ∀ (s : State) (rest : List HostAction), s.pending = .reset :: rest →
    ∃ t, step s = .next t ∧ t.tv = false ∧ t.res = 0 ∧ t.crcacc = 0xFFFFFFFF ∧ t.err = 0 ∧ t.einfo0 = 0 ∧
      t.einfo1 = 0 ∧ t.found = false ∧ t.cur = 0 ∧ t.idx = 0 ∧ t.w = none ∧ t.cs = [] ∧ t.ibuf = [] ∧ t.obuf = [] ∧
      statusView t = 0 ∧ t.cfg = s.cfg

/-! ### The CRC unit (40_crc.md) -/

/-- The bit-serial form equals the byte step for every register and byte (R112). -/
def Obligations.BitSerialFormAgrees : Prop :=
  ∀ (r : Word) (b : Byte), crcStepSerial r b = crcStep r b

/-- The table form equals the byte step, and the printed table is `TAB[i] = crc_step(0, i)` (R114). -/
def Obligations.TableFormAgrees : Prop :=
  (∀ (r : Word) (b : Byte), crcStepTable r b = crcStep r b) ∧
  crcTable.length = 256 ∧ (∀ i : Nat, i < 256 → crcTable[i]? = some (crcStep 0 (BitVec.ofNat 8 i)))

/-- The source's example: the 46 bytes have checksum 2882656334, with the first payload byte changed 2377976466, and any
single changed byte changes any checksum (R115). -/
def Obligations.OneChangedByteChangesCrc : Prop :=
  (∀ (l : List Byte) (i : Nat) (b : Byte), i < l.length → l[i]? ≠ some b → crc32 (l.set i b) ≠ crc32 l) ∧
  (∀ msg : List Byte, msg = ([0x54, 0x68, 0x69, 0x73, 0x20, 0x69, 0x73, 0x20, 0x77, 0x68, 0x65, 0x72, 0x65, 0x20] ++
      [0x79, 0x6F, 0x75, 0x72, 0x20, 0x73, 0x65, 0x63, 0x72, 0x65, 0x74, 0x20, 0x6D, 0x65, 0x73, 0x73] ++
      [0x61, 0x67, 0x65, 0x20, 0x77, 0x69, 0x6C, 0x6C, 0x20, 0x62, 0x65, 0x21] : List Byte) →
    msg.length = 42 ∧ crc32 ([0x52, 0x75, 0x53, 0x74] ++ msg) = 2882656334 ∧
    crc32 ([0x52, 0x75, 0x53, 0x74] ++ msg.set 0 0x74) = 2377976466)

/-- The four commands of the CRC unit, each with its encoding and its whole effect (R116 to R119). -/
def Obligations.CrcCommandsFollowTheirRules : Prop :=
  RunsN 0x10 .crcInit ∧ RunsB 0x11 .crcByte ∧ RunsN 0x12 .crcBuf ∧ RunsN 0x13 .crcFinal ∧ ∀ s : State,
    exec .crcInit s = .next { s with crcacc := 0xFFFFFFFF, err := 0, einfo0 := 0, einfo1 := 0 } ∧
    (∀ b, exec (.crcByte b) s = .next { s with crcacc := crcStep s.crcacc b, err := 0, einfo0 := 0, einfo1 := 0 }) ∧
    exec .crcBuf s = .next { s with crcacc := s.ibuf.foldl crcStep s.crcacc, err := 0, einfo0 := 0, einfo1 := 0 } ∧
    exec .crcFinal s = .next { s with res := s.crcacc ^^^ 0xFFFFFFFF, err := 0, einfo0 := 0, einfo1 := 0 }

/-- CRC.INIT, then any host actions but a restart of the accumulator, then CRC.FINAL leave in `RES` the checksum of the
bytes that CRC.BYTE and CRC.BUF fed in between, however they were cut (R120). -/
def Obligations.CrcUnitComputesCrc32 : Prop :=
  ∀ (s u : State) (acts : List HostAction), (∀ a ∈ acts, restartsCrc a = false) →
    runActions (issue .crcInit :: (acts ++ [issue .crcFinal])) s = .next u →
    u.res = crc32 (fedBytes acts { s with crcacc := 0xFFFFFFFF, err := 0, einfo0 := 0, einfo1 := 0 })

/-! ### The tag unit (41_tag.md) -/

/-- A byte is alphabetic exactly in the two ranges of ASCII letters (R130). -/
def Obligations.AlphaIsAsciiLetter : Prop :=
  ∀ b : Byte, alpha b = true ↔ (65 ≤ b.toNat ∧ b.toNat ≤ 90) ∨ (97 ≤ b.toNat ∧ b.toNat ≤ 122)

/-- The bits of `TFLAGS` are the six predicates, each read off the tag's bytes (R131 to R136; 10_state.md R23), with the
rules' examples. -/
def Obligations.TagFlagsShowThePredicates : Prop :=
  (∀ t : Tag,
    ((tagFlags t).getLsbD 0 = true ↔ t.b0.getLsbD 5 = false) ∧
    ((tagFlags t).getLsbD 1 = true ↔ t.b1.getLsbD 5 = false) ∧
    ((tagFlags t).getLsbD 2 = true ↔ t.b2.getLsbD 5 = false) ∧
    ((tagFlags t).getLsbD 3 = true ↔ t.b3.getLsbD 5 = true) ∧
    ((tagFlags t).getLsbD 4 = true ↔ alpha t.b0 = true ∧ alpha t.b1 = true ∧ alpha t.b2 = true ∧ alpha t.b3 = true) ∧
    ((tagFlags t).getLsbD 5 = true ↔ (tagFlags t).getLsbD 4 = true ∧ (tagFlags t).getLsbD 2 = true) ∧
    (∀ j, 6 ≤ j → (tagFlags t).getLsbD j = false)) ∧
  tagCrit ⟨0x52, 0x75, 0x53, 0x74⟩ = true ∧ tagCrit ⟨0x72, 0x75, 0x53, 0x74⟩ = false ∧
  tagPub ⟨0x52, 0x75, 0x53, 0x74⟩ = false ∧ tagPub ⟨0x52, 0x55, 0x53, 0x74⟩ = true ∧
  tagRsv ⟨0x52, 0x75, 0x53, 0x74⟩ = true ∧ tagRsv ⟨0x52, 0x75, 0x73, 0x74⟩ = false ∧
  tagSafe ⟨0x52, 0x75, 0x53, 0x74⟩ = true ∧ tagSafe ⟨0x52, 0x75, 0x53, 0x54⟩ = false

/-- CRIT, PUB, RSV and SAFE each depend on exactly one bit of the tag, and are defined for every four bytes (R137). -/
def Obligations.FlagsDependOnOneBitEach : Prop :=
  (∀ t t' : Tag,
    (tagCrit t = tagCrit t' ↔ t.b0.getLsbD 5 = t'.b0.getLsbD 5) ∧
    (tagPub t = tagPub t' ↔ t.b1.getLsbD 5 = t'.b1.getLsbD 5) ∧
    (tagRsv t = tagRsv t' ↔ t.b2.getLsbD 5 = t'.b2.getLsbD 5) ∧
    (tagSafe t = tagSafe t' ↔ t.b3.getLsbD 5 = t'.b3.getLsbD 5)) ∧
  (tagCrit ⟨0, 0, 0, 0⟩ && tagPub ⟨0, 0, 0, 0⟩ && tagRsv ⟨0, 0, 0, 0⟩ && !tagSafe ⟨0, 0, 0, 0⟩) = true ∧
  (!tagCrit ⟨255, 255, 255, 255⟩ && !tagPub ⟨255, 255, 255, 255⟩ && !tagRsv ⟨255, 255, 255, 255⟩ &&
    tagSafe ⟨255, 255, 255, 255⟩) = true

/-- TAG.LOAD writes its four bytes to `T`, sets `TV`, and cannot fail (R138). TAG.PARSE: FormatError(1) on a length other
than 4, then FormatError(2) on a byte that is no letter, else `T` is the string (R139); so the bytes of an alphabetic `T`
leave `T` as it is (R140). -/
def Obligations.TagCommandsFollowTheirRules : Prop :=
  RunsK 0x20 .tagLoad ∧ RunsN 0x21 .tagParse ∧
  (∀ (s : State) (k : Tag),
    exec (.tagLoad k) s = .next { s with t := k, tv := true, err := 0, einfo0 := 0, einfo1 := 0 }) ∧
  (∀ s : State,
    (s.ibuf.length ≠ 4 → exec .tagParse s = .next { s with err := 1, einfo0 := 1, einfo1 := 0 }) ∧
    (∀ a b c d : Byte, s.ibuf = [a, b, c, d] →
      exec .tagParse s =
        if alpha a = true ∧ alpha b = true ∧ alpha c = true ∧ alpha d = true then
          .next { s with t := ⟨a, b, c, d⟩, tv := true, err := 0, einfo0 := 0, einfo1 := 0 }
        else .next { s with err := 1, einfo0 := 2, einfo1 := 0 }) ∧
    (tagAlpha s.t = true → s.ibuf = tagBytes s.t →
      exec .tagParse s = .next { s with tv := true, err := 0, einfo0 := 0, einfo1 := 0 }))

/-! ### The chunk unit (42_chunk.md) -/

/-- NOP clears the status group and changes nothing else (R151). -/
def Obligations.NopClearsTheStatusGroup : Prop :=
  RunsN 0x00 .nop ∧ ∀ s : State, exec .nop s = .next { s with err := 0, einfo0 := 0, einfo1 := 0 }

/-- CH.BUILD: OperandMissing(1) while `TV = 0`, else `W` is the chunk of `T` and all of IBUF, its cache empty (R160). -/
def Obligations.ChBuildFollowsItsRule : Prop :=
  RunsN 0x30 .chBuild ∧ ∀ s : State,
    (s.tv = false → exec .chBuild s = .next { s with err := 9, einfo0 := 1, einfo1 := 0 }) ∧
    (s.tv = true → exec .chBuild s =
      .next { s with w := some ⟨s.t, s.ibuf, none⟩, err := 0, einfo0 := 0, einfo1 := 0 })

/-- CH.LEN: OperandMissing(2) while `W = none`, else `RES` is the payload's byte count (R161). -/
def Obligations.ChLenFollowsItsRule : Prop :=
  RunsN 0x31 .chLen ∧ ∀ s : State,
    (s.w = none → exec .chLen s = .next { s with err := 9, einfo0 := 2, einfo1 := 0 }) ∧
    (∀ c, s.w = some c → exec .chLen s =
      .next { s with res := BitVec.ofNat 32 c.payload.length, err := 0, einfo0 := 0, einfo1 := 0 })

/-- CH.CRC: OperandMissing(2) while `W = none`, else `RES` and the chunk's cache are the checksum of tag and payload
(R162). -/
def Obligations.ChCrcFollowsItsRule : Prop :=
  RunsN 0x32 .chCrc ∧ ∀ s : State,
    (s.w = none → exec .chCrc s = .next { s with err := 9, einfo0 := 2, einfo1 := 0 }) ∧
    (∀ c, s.w = some c → exec .chCrc s =
      .next { s with w := some { c with ck := some (crc32 (tagBytes c.tag ++ c.payload)) },
                     res := crc32 (tagBytes c.tag ++ c.payload), err := 0, einfo0 := 0, einfo1 := 0 })

/-- CH.SER: OperandMissing(2), then CapacityExceeded(1), else OBUF is the frame of `W` and the cache is filled (R164). -/
def Obligations.ChSerFollowsItsRule : Prop :=
  RunsN 0x33 .chSer ∧ ∀ s : State,
    (s.w = none → exec .chSer s = .next { s with err := 9, einfo0 := 2, einfo1 := 0 }) ∧
    (∀ c, s.w = some c → s.cfg.bufCap < 12 + c.payload.length →
      exec .chSer s = .next { s with err := 10, einfo0 := 1, einfo1 := 0 }) ∧
    (∀ c, s.w = some c → 12 + c.payload.length ≤ s.cfg.bufCap → exec .chSer s =
      .next { s with w := some { c with ck := some (crc32 (tagBytes c.tag ++ c.payload)) }, obuf := ser c,
                     err := 0, einfo0 := 0, einfo1 := 0 })

/-- The serialization of a chunk, its length, and the rule's example (R152). -/
def Obligations.SerLayout : Prop :=
  (∀ c : Chunk, ser c = be32 (BitVec.ofNat 32 c.payload.length) ++ tagBytes c.tag ++ c.payload ++
      be32 (crc32 (tagBytes c.tag ++ c.payload)) ∧ (ser c).length = 12 + c.payload.length) ∧
  ser ⟨⟨0x49, 0x45, 0x4E, 0x44⟩, [], none⟩ = [0, 0, 0, 0, 0x49, 0x45, 0x4E, 0x44, 0xAE, 0x42, 0x60, 0x82]

/-- CH.PARSE, test by test in the rule's order, with the whole next state in each case (R163, R153, R154). -/
def Obligations.ChParseFollowsItsRule : Prop :=
  RunsN 0x34 .chParse ∧ ∀ (s : State) (len exp comp : Word) (tag : Tag) (pay : List Byte),
    len = unbe32 (memRead s.ibuf 0 4) → tag = tagOfBytes (memRead s.ibuf 4 4) → pay = memRead s.ibuf 8 len.toNat →
    exp = unbe32 (memRead s.ibuf (8 + len.toNat) 4) → comp = crc32 (tagBytes tag ++ pay) →
    exec .chParse s =
      if s.ibuf.length < 12 then
        .next { s with cur := 0, err := 2, einfo0 := BitVec.ofNat 32 s.ibuf.length, einfo1 := 0 }
      else if s.ibuf.length ≠ len.toNat + 12 then
        .next { s with cur := 0, err := 3, einfo0 := len, einfo1 := BitVec.ofNat 32 s.ibuf.length }
      else if tagAlpha tag = false then
        .next { s with cur := 0, err := 1, einfo0 := 2, einfo1 := 0 }
      else if comp ≠ exp then
        .next { s with cur := 0, err := 5, einfo0 := comp, einfo1 := exp }
      else
        .next { s with w := some ⟨tag, pay, some comp⟩, cur := BitVec.ofNat 32 s.ibuf.length,
                       err := 0, einfo0 := 0, einfo1 := 0 }

/-- CH.DATA: OperandMissing(2) while `W = none`, else OBUF is the payload (R166). -/
def Obligations.ChDataFollowsItsRule : Prop :=
  RunsN 0x35 .chData ∧ ∀ s : State,
    (s.w = none → exec .chData s = .next { s with err := 9, einfo0 := 2, einfo1 := 0 }) ∧
    (∀ c, s.w = some c → exec .chData s = .next { s with obuf := c.payload, err := 0, einfo0 := 0, einfo1 := 0 })

/-- CH.TAG: OperandMissing(2) while `W = none`, else `T` is the chunk's tag and `TV` is set (R167). -/
def Obligations.ChTagFollowsItsRule : Prop :=
  RunsN 0x36 .chTag ∧ ∀ s : State,
    (s.w = none → exec .chTag s = .next { s with err := 9, einfo0 := 2, einfo1 := 0 }) ∧
    (∀ c, s.w = some c →
      exec .chTag s = .next { s with t := c.tag, tv := true, err := 0, einfo0 := 0, einfo1 := 0 })

/-- Parsing what was serialized gives an equal chunk when the tag is alphabetic and FormatError otherwise; serializing
what was parsed gives the same bytes (R168). The bound on the payload is 00_scope.md R5's. -/
def Obligations.ChunkRoundTrip : Prop :=
  (∀ c : Chunk, c.payload.length < 4294967296 → tagAlpha c.tag = true →
    ∃ d, chunkParse (ser c) = .ok d ∧ eraseCache d = eraseCache c) ∧
  (∀ (l : List Byte) (c : Chunk), chunkParse l = .ok c → ser c = l) ∧
  (∀ c : Chunk, c.payload.length < 4294967296 → tagAlpha c.tag = false →
    chunkParse (ser c) = .error (.formatError .notAlphabetic))

/-- What the parser says of a frame after one change: one payload byte, any other length field, one tag byte to a
non-letter or to another letter, any other checksum field (R169). Of several changed payload or tag bytes it says nothing:
the rule speaks of one, and several can leave the checksum as it was. -/
def Obligations.ChangedFrameIsCaught : Prop :=
  ∀ c : Chunk, c.payload.length < 4294967296 → tagAlpha c.tag = true →
    (∀ (i : Nat) (b : Byte), i < c.payload.length → c.payload[i]? ≠ some b →
      ∃ comp, comp ≠ chunkChecksum c ∧
        chunkParse ((ser c).set (8 + i) b) = .error (.checksumMismatch comp (chunkChecksum c))) ∧
    (∀ len : Word, len ≠ BitVec.ofNat 32 c.payload.length →
      chunkParse (be32 len ++ (ser c).drop 4) = .error (.sizeMismatch len (12 + c.payload.length))) ∧
    (∀ (i : Nat) (b : Byte), i < 4 → alpha b = false →
      chunkParse ((ser c).set (4 + i) b) = .error (.formatError .notAlphabetic)) ∧
    (∀ (i : Nat) (b : Byte), i < 4 → alpha b = true → (tagBytes c.tag)[i]? ≠ some b →
      ∃ comp, comp ≠ chunkChecksum c ∧
        chunkParse ((ser c).set (4 + i) b) = .error (.checksumMismatch comp (chunkChecksum c))) ∧
    (∀ exp : Word, exp ≠ chunkChecksum c →
      chunkParse ((ser c).take (8 + c.payload.length) ++ be32 exp) =
        .error (.checksumMismatch (chunkChecksum c) exp))

/-- No command raises TrailingBytes, and no parser does (R165). -/
def Obligations.TrailingBytesNeverRaised : Prop :=
  (∀ (i : Instr) (s t : State), exec i s = .next t → t.err ≠ 4) ∧
  (∀ l : List Byte, chunkParse l ≠ .error .trailingBytes) ∧
  (∀ (p : Params) (l : List Byte) (c : Nat), containerParse p l ≠ .error (c, .trailingBytes))

/-! ### The container unit (43_container.md) -/

/-- CT.PARSE: the signature, the frame loop of the rule's pseudocode, the capacity tests, with the whole next state in
each case; a bound on the turns of at least the bytes that remain leaves the loop as the rule writes it (R181; log
entry 12). -/
def Obligations.CtParseFollowsItsRule : Prop :=
  RunsN 0x40 .ctParse ∧
  (∀ s : State, exec .ctParse s =
    if s.ibuf.length < 8 ∨ s.ibuf.take 8 ≠ s.cfg.sig.toList then
      .next { s with cur := 0, err := 6, einfo0 := 0, einfo1 := 0 }
    else
      match parseFrames s.ibuf.length (s.ibuf.drop 8) 8 with
      | .error (c, e) =>
        .next { s with cur := BitVec.ofNat 32 c, err := errCode e, einfo0 := errInfo0 e, einfo1 := errInfo1 e }
      | .ok acc =>
        if s.cfg.maxChunks < acc.length then
          .next { s with cur := BitVec.ofNat 32 s.ibuf.length, err := 10, einfo0 := 2, einfo1 := 0 }
        else if s.cfg.storeCap < s.ibuf.length - 8 then
          .next { s with cur := BitVec.ofNat 32 s.ibuf.length, err := 10, einfo0 := 3, einfo1 := 0 }
        else
          .next { s with cs := acc, cur := BitVec.ofNat 32 s.ibuf.length, err := 0, einfo0 := 0, einfo1 := 0 }) ∧
  (∀ (turns : Nat) (rest : List Byte) (c : Nat) (len : Word), rest.length ≤ turns → len = unbe32 (memRead rest 0 4) →
    parseFrames turns rest c =
      if rest.length = 0 then .ok []
      else if rest.length < 12 then .error (c, .truncatedInput rest.length)
      else if rest.length < len.toNat + 12 then .error (c, .sizeMismatch len rest.length)
      else
        match frameCheck (rest.take (12 + len.toNat)) with
        | .error e => .error (c, e)
        | .ok x =>
          match parseFrames turns (rest.drop (12 + len.toNat)) (c + 12 + len.toNat) with
          | .error e => .error e
          | .ok xs => .ok (x :: xs))

/-- An input that is exactly `SIG` gives an empty store and succeeds, from any state (R181, R195). -/
def Obligations.SignatureAloneParsesEmpty : Prop :=
  ∀ s : State, s.ibuf = s.cfg.sig.toList →
    exec .ctParse s = .next { s with cs := [], cur := 8, err := 0, einfo0 := 0, einfo1 := 0 }

/-- CT.APPEND: OperandMissing(2), then CapacityExceeded(2), then (3), else the chunk of `W` moves to the end of the store
(R184). -/
def Obligations.CtAppendFollowsItsRule : Prop :=
  RunsN 0x41 .ctAppend ∧ ∀ s : State,
    (s.w = none → exec .ctAppend s = .next { s with err := 9, einfo0 := 2, einfo1 := 0 }) ∧
    (∀ c, s.w = some c → exec .ctAppend s =
      if s.cfg.maxChunks < s.cs.length + 1 then .next { s with err := 10, einfo0 := 2, einfo1 := 0 }
      else if s.cfg.storeCap < storeFootprint s.cs + (12 + c.payload.length) then
        .next { s with err := 10, einfo0 := 3, einfo1 := 0 }
      else .next { s with cs := s.cs ++ [c], w := none, err := 0, einfo0 := 0, einfo1 := 0 })

/-- `first_match` is the least position whose chunk has the key as its tag, or none when there is no such position
(R185). -/
def Obligations.FirstMatchIsLeast : Prop :=
  ∀ (cs : List Chunk) (k : Tag),
    (∀ i, firstMatch cs k = some i ↔
      (∃ c, cs[i]? = some c ∧ c.tag = k) ∧ (∀ j c, j < i → cs[j]? = some c → c.tag ≠ k)) ∧
    (firstMatch cs k = none ↔ ∀ c ∈ cs, c.tag ≠ k)

/-- CT.FIND copies the first match into `W`; absence is no error and keeps `W` (R186). -/
def Obligations.CtFindFollowsItsRule : Prop :=
  RunsK 0x42 .ctFind ∧ ∀ (s : State) (k : Tag),
    (∀ i c, firstMatch s.cs k = some i → s.cs[i]? = some c →
      exec (.ctFind k) s =
        .next { s with found := true, idx := BitVec.ofNat 32 i, w := some c, err := 0, einfo0 := 0, einfo1 := 0 }) ∧
    ((∀ c ∈ s.cs, c.tag ≠ k) →
      exec (.ctFind k) s =
        .next { s with found := false, idx := BitVec.ofNat 32 s.cs.length, err := 0, einfo0 := 0, einfo1 := 0 })

/-- CT.REMOVE moves the first match into `W`, the others keep their order; absence is ChunkNotFound with the key, and
`CS` and `W` are unchanged (R188, R193). -/
def Obligations.CtRemoveFollowsItsRule : Prop :=
  RunsK 0x43 .ctRemove ∧ ∀ (s : State) (k : Tag),
    (∀ i c, firstMatch s.cs k = some i → s.cs[i]? = some c →
      exec (.ctRemove k) s =
        .next { s with w := some c, cs := s.cs.take i ++ s.cs.drop (i + 1), found := true, idx := BitVec.ofNat 32 i,
                       err := 0, einfo0 := 0, einfo1 := 0 }) ∧
    ((∀ c ∈ s.cs, c.tag ≠ k) →
      exec (.ctRemove k) s =
        .next { s with found := false, idx := BitVec.ofNat 32 s.cs.length, err := 7, einfo0 := unbe32 (tagBytes k),
                       einfo1 := 0 })

/-- CT.SER: CapacityExceeded(1) when the output does not fit, else OBUF is the signature and every chunk's frame in order,
of 8 bytes and the footprints, and every cache is filled (R189, R190). -/
def Obligations.CtSerFollowsItsRule : Prop :=
  RunsN 0x44 .ctSer ∧ ∀ s : State,
    (s.cfg.bufCap < 8 + storeFootprint s.cs →
      exec .ctSer s = .next { s with err := 10, einfo0 := 1, einfo1 := 0 }) ∧
    (8 + storeFootprint s.cs ≤ s.cfg.bufCap →
      exec .ctSer s =
        .next { s with cs := s.cs.map (fun c => { c with ck := some (crc32 (tagBytes c.tag ++ c.payload)) }),
                       obuf := s.cfg.sig.toList ++ s.cs.flatMap ser, err := 0, einfo0 := 0, einfo1 := 0 } ∧
      (s.cfg.sig.toList ++ s.cs.flatMap ser).length = 8 + storeFootprint s.cs)

/-- If CT.PARSE succeeds on IBUF then CT.SER leaves exactly those bytes in OBUF (R191). -/
def Obligations.ContainerRoundTrip : Prop :=
  ∀ s t : State, s.ibuf.length ≤ s.cfg.bufCap → exec .ctParse s = .next t → t.err = 0 →
    ∃ u, exec .ctSer t = .next u ∧ u.err = 0 ∧ u.obuf = s.ibuf

/-- Append, serialize, load the output, parse: with every tag of the store alphabetic and the capacities allowing, the
store is the old one with the chunk at the end; if the chunk's own tag is not alphabetic the parse fails with FormatError
at the last frame and the store stays as appended (R192). -/
def Obligations.AppendSerializeReparse : Prop :=
  ∀ (s : State) (c : Chunk), s.w = some c → (∀ d ∈ s.cs, tagAlpha d.tag = true) → s.cfg.bufCap ≤ 4294967295 →
    s.cs.length + 1 ≤ s.cfg.maxChunks → storeFootprint s.cs + chunkFootprint c ≤ s.cfg.storeCap →
    8 + storeFootprint s.cs + chunkFootprint c ≤ s.cfg.bufCap →
    ∃ u v, runActions [issue .ctAppend, issue .ctSer] s = .next u ∧
      runActions [.load u.obuf, issue .ctParse] u = .next v ∧
      v.cs.map eraseCache = (s.cs ++ [c]).map eraseCache ∧
      (tagAlpha c.tag = true → v.err = 0) ∧
      (tagAlpha c.tag = false →
        v.err = 1 ∧ v.einfo0 = 2 ∧ v.cur = BitVec.ofNat 32 (8 + storeFootprint s.cs))

/-- After CT.REMOVE of position `i` the chunks below `i` stand where they stood, those above one lower, and CT.SER then,
wherever what is left fits, gives the old serialization with that one frame cut out (R194), whether or not the old one
fitted; what is left is smaller by the frame's bytes. -/
def Obligations.RemovalKeepsOrder : Prop :=
  ∀ (s t : State) (k : Tag) (i : Nat), firstMatch s.cs k = some i → exec (.ctRemove k) s = .next t →
    (∀ j, j < i → t.cs[j]? = s.cs[j]?) ∧ (∀ j, i ≤ j → t.cs[j]? = s.cs[j + 1]?) ∧
    ∃ c, s.cs[i]? = some c ∧ storeFootprint t.cs + chunkFootprint c = storeFootprint s.cs ∧
      (8 + storeFootprint t.cs ≤ t.cfg.bufCap → ∃ u, exec .ctSer t = .next u ∧ u.err = 0 ∧
        u.obuf = (cser s.cfg s.cs).take (8 + storeFootprint (s.cs.take i)) ++
          (cser s.cfg s.cs).drop (8 + storeFootprint (s.cs.take i) + chunkFootprint c))

/-- After a successful CT.APPEND each command that needs `W` fails with OperandMissing(2) (70_reset_and_hazards.md
R244). -/
def Obligations.AppendMovesTheChunk : Prop :=
  ∀ (s t : State) (i : Instr), exec .ctAppend s = .next t → t.err = 0 →
    i ∈ [Instr.chSer, .chLen, .chCrc, .chData, .chTag, .ctAppend] →
    t.w = none ∧ exec i t = .next { t with err := 9, einfo0 := 2, einfo1 := 0 }

/-! ### Whole-machine rules -/

/-- Every command answers a next state from every state: there is no stuck case (93_implementation_defined.md Part 1), and
no command writes IBUF (10_state.md R37). That `cfg`, `pending`, `observed` and `freeReads` keep is about fields of the
model's own, and no rule of the spec: the parameters (log entry 2), the host's coming actions (log entry 1), the record of
reads (log entry 6), the count of free values (log entry 4). -/
def Obligations.EveryCommandAnswers : Prop :=
  ∀ (i : Instr) (s : State), ∃ t, exec i s = .next t ∧ t.cfg = s.cfg ∧ t.ibuf = s.ibuf ∧ t.pending = s.pending ∧
    t.observed = s.observed ∧ t.freeReads = s.freeReads

/-- What each kind of error leaves in the status group, and that raising it changes nothing else (60_exceptions.md R211,
R213 to R215); the counts are below 2^32 in every state of the invariant. -/
def Obligations.ErrorRecords : Prop :=
  ∀ s : State,
    raise (.formatError .notFourBytes) s = .next { s with err := 1, einfo0 := 1, einfo1 := 0 } ∧
    raise (.formatError .notAlphabetic) s = .next { s with err := 1, einfo0 := 2, einfo1 := 0 } ∧
    (∀ n, raise (.truncatedInput n) s = .next { s with err := 2, einfo0 := BitVec.ofNat 32 n, einfo1 := 0 }) ∧
    (∀ len n, raise (.sizeMismatch len n) s =
      .next { s with err := 3, einfo0 := len, einfo1 := BitVec.ofNat 32 n }) ∧
    (∀ comp exp, raise (.checksumMismatch comp exp) s = .next { s with err := 5, einfo0 := comp, einfo1 := exp }) ∧
    raise .badSignature s = .next { s with err := 6, einfo0 := 0, einfo1 := 0 } ∧
    (∀ k, raise (.chunkNotFound k) s = .next { s with err := 7, einfo0 := unbe32 (tagBytes k), einfo1 := 0 }) ∧
    (∀ cw : CommandWord, raise (.illegalCommand cw) s =
      .next { s with err := 8, einfo0 := (cw.extractLsb' 32 8).setWidth 32, einfo1 := cw.extractLsb' 0 32 }) ∧
    raise (.operandMissing .tagRegister) s = .next { s with err := 9, einfo0 := 1, einfo1 := 0 } ∧
    raise (.operandMissing .workingChunk) s = .next { s with err := 9, einfo0 := 2, einfo1 := 0 } ∧
    raise (.capacityExceeded .bufCap) s = .next { s with err := 10, einfo0 := 1, einfo1 := 0 } ∧
    raise (.capacityExceeded .maxChunks) s = .next { s with err := 10, einfo0 := 2, einfo1 := 0 } ∧
    raise (.capacityExceeded .storeCap) s = .next { s with err := 10, einfo0 := 3, einfo1 := 0 }

/-- A failing command writes the status group and, of all else, only `CUR` for the parsers and `FOUND := 0`, `IDX := NCH`
for CT.REMOVE (60_exceptions.md R216). -/
def Obligations.FailureCommit : Prop :=
  ∀ (i : Instr) (s t : State), exec i s = .next t → t.err ≠ 0 →
    t = { s with err := t.err, einfo0 := t.einfo0, einfo1 := t.einfo1, cur := t.cur, found := t.found,
                 idx := t.idx } ∧
    (i ≠ .chParse → i ≠ .ctParse → t.cur = s.cur) ∧
    ((∀ k, i ≠ .ctRemove k) → t.found = s.found ∧ t.idx = s.idx) ∧
    (∀ k, i = .ctRemove k → t.found = false ∧ t.idx = BitVec.ofNat 32 s.cs.length)

/-- A command that completes leaves 0, 0, 0 in the status group, and what the status group holds does not depend on what it
held before (60_exceptions.md R217). -/
def Obligations.SuccessCommit : Prop :=
  (∀ (i : Instr) (s t : State), exec i s = .next t → t.err = 0 → t.einfo0 = 0 ∧ t.einfo1 = 0) ∧
  (∀ (i : Instr) (s : State) (e : Byte) (i0 i1 : Word),
    exec i { s with err := e, einfo0 := i0, einfo1 := i1 } = exec i s)

/-- The matrix of commands and errors: a command raises only what its row marks, each mark is met in a state within the
invariant, and a word of a format K command is never illegal while every other command's opcode has an illegal word
(60_exceptions.md R219). -/
def Obligations.ErrorMatrix : Prop :=
  (∀ (i : Instr) (s t : State), exec i s = .next t → t.err ≠ 0 → canRaise i t.err = true) ∧
  (∀ (i : Instr) (e : Byte), canRaise i e = true → ∃ s t, s.Inv ∧ exec i s = .next t ∧ t.err = e) ∧
  (∀ cw : CommandWord, opField cw = 0x20 ∨ opField cw = 0x42 ∨ opField cw = 0x43 → ∃ i, decode cw = .ok i) ∧
  (∀ i : Instr, (∀ k, i ≠ .tagLoad k ∧ i ≠ .ctFind k ∧ i ≠ .ctRemove k) →
    ∃ cw, opField cw = opcodeOf i ∧ ∀ j, decode cw ≠ .ok j)

/-- A command writes nothing that its row of the read and write table does not list, on success and on failure; the buffers
are compared byte by byte (10_state.md R43). -/
def Obligations.CommandsWriteOnlyWhatIsListed : Prop :=
  ∀ (i : Instr) (s t : State) (e : Element), exec i s = .next t →
    e ∉ (if t.err = 0 then writesOnSuccess i else writesOnFailure i) → Same e s t

/-- A command reads nothing that its row does not list: two states with the same parameters that agree on the listed
elements give the same status group, and each element comes out the same in both or is left alone in both (10_state.md
R43). -/
def Obligations.CommandsReadOnlyWhatIsListed : Prop :=
  ∀ (i : Instr) (s s' t t' : State), s'.cfg = s.cfg → (∀ e ∈ readsOf i, Same e s s') →
    exec i s = .next t → exec i s' = .next t' →
    (t'.err = t.err ∧ t'.einfo0 = t.einfo0 ∧ t'.einfo1 = t.einfo1) ∧
    (∀ e : Element, Same e t t' ∨ (Same e s t ∧ Same e s' t'))

/-- The invariant holds right after reset (10_state.md R45). -/
def Obligations.ResetMeetsTheInvariant : Prop :=
  State.reset.Inv ∧ ∀ p : Params, p.wf = true → (State.resetWith p).Inv

/-- Every step keeps the invariant: parameters legal, buffers and payloads within capacity, caches true, store within its
limits, `ERR` a code that can be raised, cursors in range (10_state.md R30, R31, R36 to R39). -/
def Obligations.StepKeepsTheInvariant : Prop :=
  ∀ s t : State, s.Inv → step s = .next t → t.Inv

/-- The capacity invariant of the store is kept by every command, from every state (10_state.md R36). -/
def Obligations.StoreCapacityIsKept : Prop :=
  ∀ (i : Instr) (s t : State), StoreFits s → exec i s = .next t → StoreFits t

/-- Every command keeps every cache a checksum of its own chunk, from every state in which it is (10_state.md R39). -/
def Obligations.CachesStayTrue : Prop :=
  ∀ (i : Instr) (s t : State), (∀ c ∈ s.w, CacheTrue c) → (∀ c ∈ s.cs, CacheTrue c) → exec i s = .next t →
    (∀ c ∈ t.w, CacheTrue c) ∧ (∀ c ∈ t.cs, CacheTrue c)

/-- The hidden caches are unobservable: emptying them all changes nothing the host can read, and a step from the emptied
state ends, caches apart, where the step from the state itself ends (10_state.md R39). -/
def Obligations.CachesAreUnobservable : Prop :=
  ∀ s : State, (∀ n, registerValue n (eraseCaches s) = registerValue n s) ∧ (eraseCaches s).obuf = s.obuf ∧
    mapNext eraseCaches (step s) = mapNext eraseCaches (step (eraseCaches s))

/-- The content of `T` while `TV = 0` is unobservable: whatever it is, the host reads the same and the step ends the same,
that content apart, so nothing rests on the reset value the model chose (10_state.md R22; log entry 3). What the host then
reads from `T` and `TFLAGS` is a free value, which does not look at `T` (log entry 4). -/
def Obligations.UnsetTagIsUnobservable : Prop :=
  ∀ s : State, (∀ n, registerValue n (eraseUnsetTag s) = registerValue n s) ∧
    mapNext eraseUnsetTag (step s) = mapNext eraseUnsetTag (step (eraseUnsetTag s))

/-- The byte-serial machine gives the results of the rules: the container parser, the frame parser and the serializer
(70_reset_and_hazards.md R253). At the empty input the one-frame clause rests on the model's reading (log entry 16,
DEDUCED): R253 read literally is done there, and the model answers TruncatedInput as 42_chunk.md R154 does. -/
def Obligations.ByteSerialMachineAgrees : Prop :=
  (∀ (p : Params) (l : List Byte), containerParseSerial p l = containerParse p l) ∧
  (∀ l : List Byte, chunkParseSerial l = (chunkParse l).map fun c => [c]) ∧
  (∀ c : Chunk, serSerial c = ser c)

/-- The macro ENCODE on a file that parses, a tag of four letters and a message that fits leaves in OBUF, and gives the
host, the file's own bytes with the new chunk's frame after them (30_encoding.md R97; 43_container.md R191, R192). How a
macro runs is the model's reading (log entry 15, DEDUCED), and the list `observed` that shows what the host got is the
model's own (log entry 6, DESIGN CHOICE). -/
def Obligations.EncodeMacroExtendsTheFile : Prop :=
  ∀ (s : State) (file msg : List Byte) (k : Tag) (cs : List Chunk), s.cfg.wf = true →
    containerParse s.cfg file = .ok cs → tagAlpha k = true → msg.length ≤ s.cfg.bufCap →
    cs.length + 1 ≤ s.cfg.maxChunks → storeFootprint cs + (12 + msg.length) ≤ s.cfg.storeCap →
    file.length + (12 + msg.length) ≤ s.cfg.bufCap →
    ∃ v, runMacro (macroEncode file (tagBytes k) msg) s = .next v ∧ v.err = 0 ∧
      v.obuf = file ++ ser ⟨k, msg, none⟩ ∧ v.observed = .output v.obuf :: s.observed

/-- A macro stops at the first command that leaves `ERR` not 0 and goes on past everything else (30_encoding.md R97); that
it runs beside the step, and ends in the state the failing command leaves, is the model's reading (log entry 15). -/
def Obligations.MacroStopsAtTheFirstError : Prop :=
  ∀ (a : HostAction) (rest : List HostAction) (s t : State), hostAct a s = .next t →
    (isCommand a = true → t.err ≠ 0 → runMacro (a :: rest) s = .next t) ∧
    (isCommand a = false ∨ t.err = 0 → runMacro (a :: rest) s = runMacro rest t)

/-- Assembler lines give the actions and words of the spec's own examples (30_encoding.md R96). -/
def Obligations.AssemblerReadsTheExamples : Prop :=
  assembleLine "CRC.BYTE 0x52".toList = some [.cmd 0x1100000052] ∧
  assembleLine "CRC.BYTE 82".toList = some [.cmd 0x1100000052] ∧
  assembleLine "TAG.LOAD \"RuSt\"".toList = some [.cmd 0x2052755374] ∧
  assembleLine "TAG.LOAD 0x52755374".toList = some [.cmd 0x2052755374] ∧
  assembleLine "CT.FIND \"RuSt\"".toList = some [.cmd 0x4252755374] ∧
  assembleLine "CT.REMOVE \"RuSt\"".toList = some [.cmd 0x4352755374] ∧
  assembleLine "CT.SER ; write it out".toList = some [.cmd 0x4400000000] ∧
  assembleLine "LOAD 89 50".toList = some [.load [0x89, 0x50]] ∧
  assembleLine "READ STATUS".toList = some [.read 4] ∧ assembleLine "RESET".toList = some [.reset] ∧
  assembleLine "CRC.INIT 1".toList = none
end

