-- ==== Sys2Proof/Laws/Bytes.lean ====
section
/-! SUPPORT. Big-endian fields, tags and runs of bytes: lengths and round trips (00_scope.md R10, R11). -/

namespace Sys2Proof.Machine

@[simp] theorem be32_length (v : Word) : (be32 v).length = 4 := rfl

@[simp] theorem tagBytes_length (t : Tag) : (tagBytes t).length = 4 := rfl

/-- Four bytes in a row are cut out of their word again. -/
theorem word_slices (a b c d : Byte) :
    (a ++ b ++ c ++ d : Word).extractLsb' 24 8 = a ∧ (a ++ b ++ c ++ d : Word).extractLsb' 16 8 = b ∧
    (a ++ b ++ c ++ d : Word).extractLsb' 8 8 = c ∧ (a ++ b ++ c ++ d : Word).extractLsb' 0 8 = d := by
  refine ⟨?_, ?_, ?_, ?_⟩ <;>
  · apply BitVec.eq_of_getLsbD_eq
    intro i hi
    simp only [BitVec.getLsbD_extractLsb', BitVec.getLsbD_append]
    have : i = 0 ∨ i = 1 ∨ i = 2 ∨ i = 3 ∨ i = 4 ∨ i = 5 ∨ i = 6 ∨ i = 7 := by omega
    rcases this with h | h | h | h | h | h | h | h <;> subst h <;> simp

/-- A word is its four bytes in a row. -/
theorem word_of_slices (v : Word) :
    (v.extractLsb' 24 8 ++ v.extractLsb' 16 8 ++ v.extractLsb' 8 8 ++ v.extractLsb' 0 8 : Word) = v := by
  apply BitVec.eq_of_getLsbD_eq
  intro i hi
  simp only [BitVec.getLsbD_extractLsb', BitVec.getLsbD_append]
  by_cases h0 : i < 8
  · simp [h0]
  · by_cases h1 : i < 16
    · have : i - 8 < 8 := by omega
      have e : 8 + (i - 8) = i := by omega
      simp [h0, this, e]
    · by_cases h2 : i < 24
      · have a : ¬ i - 8 < 8 := by omega
        have b : i - 8 - 8 < 8 := by omega
        have e : 16 + (i - 8 - 8) = i := by omega
        simp [h0, a, b, e]
      · have a : ¬ i - 8 < 8 := by omega
        have b : ¬ i - 8 - 8 < 8 := by omega
        have d : i - 8 - 8 - 8 < 8 := by omega
        have e : 24 + (i - 8 - 8 - 8) = i := by omega
        simp [h0, a, b, d, e]

/-- `unbe32(be32(v)) = v` (00_scope.md R11). -/
@[simp] theorem unbe32_be32 (v : Word) : unbe32 (be32 v) = v := by
  simpa [unbe32, be32] using word_of_slices v

/-- `be32(unbe32(s)) = s` for a 4-byte sequence (00_scope.md R11). -/
theorem be32_unbe32 {l : List Byte} (h : l.length = 4) : be32 (unbe32 l) = l := by
  match l, h with
  | [a, b, c, d], _ =>
    obtain ⟨ha, hb, hc, hd⟩ := word_slices a b c d
    simp only [be32, unbe32, List.getD_cons_zero, List.getD_cons_succ]
    rw [ha, hb, hc, hd]

@[simp] theorem tagOfBytes_tagBytes (t : Tag) : tagOfBytes (tagBytes t) = t := rfl

theorem tagBytes_tagOfBytes {l : List Byte} (h : l.length = 4) : tagBytes (tagOfBytes l) = l := by
  match l, h with
  | [a, b, c, d], _ => rfl

@[simp] theorem tagOfWord_tagWord (t : Tag) : tagOfWord (tagWord t) = t := by
  obtain ⟨a, b, c, d⟩ := t
  obtain ⟨ha, hb, hc, hd⟩ := word_slices a b c d
  simp only [tagOfWord, tagWord]
  rw [ha, hb, hc, hd]

@[simp] theorem tagWord_tagOfWord (v : Word) : tagWord (tagOfWord v) = v := word_of_slices v

/-- A read inside the buffer has the length asked for (00_scope.md R12). -/
theorem memRead_length {buf : List Byte} {a n : Nat} (h : a + n ≤ buf.length) : (memRead buf a n).length = n := by
  simp [memRead]; omega

/-- The whole buffer, read whole. -/
@[simp] theorem memRead_all (buf : List Byte) : memRead buf 0 buf.length = buf := by
  simp [memRead]

theorem memRead_drop (buf : List Byte) (c a n : Nat) : memRead (buf.drop c) a n = memRead buf (c + a) n := by
  simp [memRead, List.drop_drop]

/-- A read that ends inside a prefix does not see what follows it. -/
theorem memRead_take {buf : List Byte} {a n m : Nat} (h : a + n ≤ m) : memRead (buf.take m) a n = memRead buf a n := by
  simp only [memRead, List.drop_take, List.take_take]
  congr 1
  omega

@[simp] theorem reg32_toNat (w : Word) : reg32 w.toNat = w := by
  simp [reg32]

theorem toNat_reg32 {n : Nat} (h : n < 4294967296) : (reg32 n).toNat = n := by
  simpa [reg32] using Nat.mod_eq_of_lt h

theorem toNat_reg32_le (n : Nat) : (reg32 n).toNat ≤ n := by
  simpa [reg32] using Nat.mod_le n _

/-- A read of a whole first part. -/
theorem memRead_append_left {a b : List Byte} {n : Nat} (h : a.length = n) : memRead (a ++ b) 0 n = a := by
  simp [memRead, ← h]

/-- A read past a first part is a read of what follows it. -/
theorem memRead_append_right {a b : List Byte} {k n : Nat} (h : a.length ≤ k) :
    memRead (a ++ b) k n = memRead b (k - a.length) n := by
  simp [memRead, List.drop_append, List.drop_eq_nil_of_le h]

/-- A frame is its four fields in order (30_encoding.md R81). -/
theorem frame_fields {l : List Byte} {n : Nat} (h : l.length = n + 12) :
    l = memRead l 0 4 ++ memRead l 4 4 ++ memRead l 8 n ++ memRead l (8 + n) 4 := by
  simp only [memRead, List.drop_zero]
  rw [show List.take 4 l ++ List.take 4 (List.drop 4 l) = List.take 8 l by rw [← List.take_add]]
  rw [show List.take 8 l ++ List.take n (List.drop 8 l) = List.take (8 + n) l by rw [← List.take_add]]
  rw [← List.take_add, List.take_of_length_le (by omega)]

end Sys2Proof.Machine
end

