-- ==== Sys2Proof/Laws/Crc.lean ====
section
/-! SUPPORT. The byte step is linear over xor and loses nothing, and a run of bytes can be cut anywhere (40_crc.md R111, R113). -/

namespace Sys2Proof.Machine

@[simp] theorem crcFeed_nil (r : Word) : crcFeed r [] = r := rfl

@[simp] theorem crcFeed_cons (r : Word) (b : Byte) (l : List Byte) : crcFeed r (b :: l) = crcFeed (crcStep r b) l := rfl

theorem crcFeed_append (r : Word) (l m : List Byte) : crcFeed r (l ++ m) = crcFeed (crcFeed r l) m :=
  List.foldl_append

/-- One turn of the loop is linear over xor. -/
theorem crcShift_xor (x y : Word) : crcShift (x ^^^ y) = crcShift x ^^^ crcShift y := by
  have hs : (x ^^^ y) >>> 1 = (x >>> 1) ^^^ (y >>> 1) := BitVec.ushiftRight_xor_distrib x y 1
  have cancel : ∀ a b p : Word, a ^^^ b = (a ^^^ p) ^^^ (b ^^^ p) := by
    intro a b p
    rw [BitVec.xor_comm b p, BitVec.xor_assoc, ← BitVec.xor_assoc p p b]
    simp
  unfold crcShift
  rw [BitVec.getLsbD_xor, hs]
  cases x.getLsbD 0 <;> cases y.getLsbD 0
  · rfl
  · exact BitVec.xor_assoc _ _ _
  · simp only [Bool.xor_false, if_true, Bool.false_eq_true, if_false]
    rw [BitVec.xor_assoc, BitVec.xor_comm (y >>> 1), ← BitVec.xor_assoc]
  · exact cancel _ _ _

theorem crcShifts_xor (n : Nat) (x y : Word) : crcShifts n (x ^^^ y) = crcShifts n x ^^^ crcShifts n y := by
  induction n generalizing x y with
  | zero => rfl
  | succ n ih => simp [crcShifts, crcShift_xor, ih]

/-- The byte step splits into what the register and what the byte contributes (40_crc.md R114). -/
theorem crcStep_split (r : Word) (b : Byte) : crcStep r b = crcShifts 8 r ^^^ crcStep 0 b := by
  simp [crcStep, crcShifts_xor]

/-- One turn of the loop loses nothing: bit 31 of the result says whether bit 0 was set. -/
theorem crcShift_injective {x y : Word} (h : crcShift x = crcShift y) : x = y := by
  have top : ∀ v : Word, (crcShift v).getLsbD 31 = v.getLsbD 0 := by
    intro v
    unfold crcShift
    cases hv : v.getLsbD 0 <;> simp [crcPoly]
  have h0 : x.getLsbD 0 = y.getLsbD 0 := by rw [← top, ← top, h]
  have h1 : x >>> 1 = y >>> 1 := by
    unfold crcShift at h
    rw [h0] at h
    split at h
    · have := congrArg (· ^^^ crcPoly) h
      simpa [BitVec.xor_assoc] using this
    · exact h
  apply BitVec.eq_of_getLsbD_eq
  intro i hi
  cases i with
  | zero => exact h0
  | succ i =>
    have := congrArg (fun v => v.getLsbD i) h1
    simpa [Nat.add_comm] using this

theorem crcShifts_injective {n : Nat} {x y : Word} (h : crcShifts n x = crcShifts n y) : x = y := by
  induction n generalizing x y with
  | zero => exact h
  | succ n ih => exact crcShift_injective (ih h)

/-- Different registers stay different under the same byte. -/
theorem crcStep_injective {r r' : Word} {b : Byte} (h : crcStep r b = crcStep r' b) : r = r' := by
  have := congrArg (· ^^^ b.setWidth 32) (crcShifts_injective h)
  simpa [BitVec.xor_assoc] using this

theorem crcFeed_injective {r r' : Word} {l : List Byte} (h : crcFeed r l = crcFeed r' l) : r = r' := by
  induction l generalizing r r' with
  | nil => exact h
  | cons b l ih => exact crcStep_injective (ih h)

end Sys2Proof.Machine
end

