-- ==== Sys2Proof/Laws/Frame.lean ====
section
/-! SUPPORT. What the pure functions of the wire format can answer, said once: the frame test, the chunk parser, the
frame loop and the container parser, and the lengths of what the serializers write. -/

namespace Sys2Proof.Machine

/-- A serialized chunk is as long as its footprint (42_chunk.md R152). -/
@[simp] theorem ser_length (c : Chunk) : (ser c).length = chunkFootprint c := by
  simp only [ser, List.length_append, be32_length, tagBytes_length, chunkFootprint]; omega

@[simp] theorem storeFootprint_nil : storeFootprint [] = 0 := rfl

@[simp] theorem storeFootprint_cons (c : Chunk) (cs : List Chunk) :
    storeFootprint (c :: cs) = chunkFootprint c + storeFootprint cs := by
  simp [storeFootprint]

@[simp] theorem storeFootprint_append (cs ds : List Chunk) :
    storeFootprint (cs ++ ds) = storeFootprint cs + storeFootprint ds := by
  simp [storeFootprint]

/-- Each chunk of a store is at least 12 bytes of it. -/
theorem storeFootprint_ge (cs : List Chunk) : 12 * cs.length ≤ storeFootprint cs := by
  induction cs with
  | nil => simp
  | cons c cs ih => simp only [List.length_cons, storeFootprint_cons, chunkFootprint]; omega

@[simp] theorem chunkCached_footprint (c : Chunk) : chunkFootprint (chunkCached c) = chunkFootprint c := rfl

@[simp] theorem ser_chunkCached (c : Chunk) : ser (chunkCached c) = ser c := rfl

@[simp] theorem storeFootprint_map_cached (cs : List Chunk) : storeFootprint (cs.map chunkCached) = storeFootprint cs := by
  induction cs with
  | nil => rfl
  | cons c cs ih => simp [ih]

theorem flatMap_ser_length (cs : List Chunk) : (cs.flatMap ser).length = storeFootprint cs := by
  induction cs with
  | nil => rfl
  | cons c cs ih => simp [ih]

/-- A serialized container is 8 bytes longer than its store (43_container.md R190). -/
theorem cser_length (p : Params) (cs : List Chunk) : (cser p cs).length = 8 + storeFootprint cs := by
  rw [cser, List.length_append, flatMap_ser_length, Vector.length_toList]

/-- Everything the frame test can answer (42_chunk.md R153). -/
theorem frameCheck_cases (f : List Byte) :
    (tagAlpha (tagOfBytes (memRead f 4 4)) = false ∧ frameCheck f = .error (.formatError .notAlphabetic)) ∨
    (tagAlpha (tagOfBytes (memRead f 4 4)) = true ∧ ∃ pay comp,
      pay = memRead f 8 (unbe32 (memRead f 0 4)).toNat ∧
      comp = crc32 (tagBytes (tagOfBytes (memRead f 4 4)) ++ pay) ∧
      ((comp = unbe32 (memRead f (8 + (unbe32 (memRead f 0 4)).toNat) 4) ∧
          frameCheck f = .ok ⟨tagOfBytes (memRead f 4 4), pay, some comp⟩) ∨
       (comp ≠ unbe32 (memRead f (8 + (unbe32 (memRead f 0 4)).toNat) 4) ∧
          frameCheck f = .error
            (.checksumMismatch comp (unbe32 (memRead f (8 + (unbe32 (memRead f 0 4)).toNat) 4)))))) := by
  cases ha : tagAlpha (tagOfBytes (memRead f 4 4)) with
  | false => exact .inl ⟨rfl, by simp [frameCheck, ha]⟩
  | true =>
    refine .inr ⟨rfl, _, _, rfl, rfl, ?_⟩
    by_cases hc : crc32 (tagBytes (tagOfBytes (memRead f 4 4)) ++ memRead f 8 (unbe32 (memRead f 0 4)).toNat) =
        unbe32 (memRead f (8 + (unbe32 (memRead f 0 4)).toNat) 4)
    · exact .inl ⟨hc, by simp [frameCheck, ha, hc]⟩
    · exact .inr ⟨hc, by simp [frameCheck, ha, hc]⟩

/-- A chunk the frame test gives: the fields of the frame, alphabetic, its cache its own checksum (42_chunk.md R153). -/
theorem frameCheck_ok {f : List Byte} {c : Chunk} (h : frameCheck f = .ok c) :
    tagAlpha c.tag = true ∧ c.tag = tagOfBytes (memRead f 4 4) ∧
    c.payload = memRead f 8 (unbe32 (memRead f 0 4)).toNat ∧ c.ck = some (chunkChecksum c) ∧
    chunkChecksum c = unbe32 (memRead f (8 + (unbe32 (memRead f 0 4)).toNat) 4) := by
  rcases frameCheck_cases f with ⟨-, h'⟩ | ⟨ha, pay, comp, hp, hc, ⟨he, h'⟩ | ⟨-, h'⟩⟩ <;> rw [h'] at h
  · cases h
  · injection h with h
    subst h
    exact ⟨ha, rfl, hp, congrArg some hc, hc.symm.trans he⟩
  · cases h

/-- An error the frame test gives is FormatError(2) or ChecksumMismatch (42_chunk.md R153). -/
theorem frameCheck_error {f : List Byte} {e : Err} (h : frameCheck f = .error e) :
    e = .formatError .notAlphabetic ∨ ∃ comp exp, comp ≠ exp ∧ e = .checksumMismatch comp exp := by
  rcases frameCheck_cases f with ⟨-, h'⟩ | ⟨-, pay, comp, -, -, ⟨-, h'⟩ | ⟨hn, h'⟩⟩ <;> rw [h'] at h
  · injection h with h; exact .inl h.symm
  · cases h
  · injection h with h; exact .inr ⟨_, _, hn, h.symm⟩

/-- Everything the chunk parser can answer (42_chunk.md R154). -/
theorem chunkParse_cases (s : List Byte) :
    (s.length < 12 ∧ chunkParse s = .error (.truncatedInput s.length)) ∨
    (12 ≤ s.length ∧ s.length ≠ (unbe32 (memRead s 0 4)).toNat + 12 ∧
      chunkParse s = .error (.sizeMismatch (unbe32 (memRead s 0 4)) s.length)) ∨
    (s.length = (unbe32 (memRead s 0 4)).toNat + 12 ∧ chunkParse s = frameCheck s) := by
  unfold chunkParse
  by_cases h1 : s.length < 12
  · exact .inl ⟨h1, by simp [h1]⟩
  · by_cases h2 : s.length = (unbe32 (memRead s 0 4)).toNat + 12
    · refine .inr (.inr ⟨h2, ?_⟩)
      rw [if_neg h1, if_neg (not_not_intro h2)]
    · refine .inr (.inl ⟨by omega, h2, ?_⟩)
      rw [if_neg h1, if_pos h2]

/-- An error the chunk parser gives is one of the four of 60_exceptions.md R219's row CH.PARSE. -/
theorem chunkParse_error {s : List Byte} {e : Err} (h : chunkParse s = .error e) :
    errCode e = 1 ∨ errCode e = 2 ∨ errCode e = 3 ∨ errCode e = 5 := by
  rcases chunkParse_cases s with ⟨-, h'⟩ | ⟨-, -, h'⟩ | ⟨-, h'⟩ <;> rw [h'] at h
  · injection h with h; subst h; simp [errCode]
  · injection h with h; subst h; simp [errCode]
  · rcases frameCheck_error h with rfl | ⟨_, _, -, rfl⟩ <;> simp [errCode]

/-- Everything one turn of the frame loop can do (43_container.md R181). -/
theorem parseFrames_succ (turns : Nat) (rest : List Byte) (c : Nat) :
    (rest = [] ∧ parseFrames (turns + 1) rest c = .ok []) ∨
    (rest ≠ [] ∧ rest.length < 12 ∧
      parseFrames (turns + 1) rest c = .error (c, .truncatedInput rest.length)) ∨
    (12 ≤ rest.length ∧ rest.length < (unbe32 (memRead rest 0 4)).toNat + 12 ∧
      parseFrames (turns + 1) rest c = .error (c, .sizeMismatch (unbe32 (memRead rest 0 4)) rest.length)) ∨
    (∃ size, size = (unbe32 (memRead rest 0 4)).toNat + 12 ∧ size ≤ rest.length ∧
      ((∃ e, frameCheck (rest.take size) = .error e ∧ parseFrames (turns + 1) rest c = .error (c, e)) ∨
       (∃ x, frameCheck (rest.take size) = .ok x ∧
          ((∃ e, parseFrames turns (rest.drop size) (c + size) = .error e ∧
              parseFrames (turns + 1) rest c = .error e) ∨
           (∃ xs, parseFrames turns (rest.drop size) (c + size) = .ok xs ∧
              parseFrames (turns + 1) rest c = .ok (x :: xs)))))) := by
  by_cases h0 : rest = []
  · exact .inl ⟨h0, by simp [parseFrames, h0]⟩
  · have hne : rest.isEmpty = false := by simpa using h0
    by_cases h1 : rest.length < 12
    · exact .inr (.inl ⟨h0, h1, by simp [parseFrames, hne, h1]⟩)
    · by_cases h2 : rest.length < (unbe32 (memRead rest 0 4)).toNat + 12
      · exact .inr (.inr (.inl ⟨by omega, h2, by simp [parseFrames, hne, h1, h2]⟩))
      · refine .inr (.inr (.inr ⟨_, rfl, by omega, ?_⟩))
        cases hf : frameCheck (rest.take ((unbe32 (memRead rest 0 4)).toNat + 12)) with
        | error e => exact .inl ⟨e, rfl, by simp [parseFrames, hne, h1, h2, hf]⟩
        | ok x =>
          refine .inr ⟨x, rfl, ?_⟩
          cases hr : parseFrames turns (rest.drop ((unbe32 (memRead rest 0 4)).toNat + 12))
              (c + ((unbe32 (memRead rest 0 4)).toNat + 12)) with
          | error e => exact .inl ⟨e, rfl, by simp [parseFrames, hne, h1, h2, hf, hr]⟩
          | ok xs => exact .inr ⟨xs, rfl, by simp [parseFrames, hne, h1, h2, hf, hr]⟩

/-- An error of the frame loop: its offset lies in the input, its kind is a frame's (43_container.md R181). -/
theorem parseFrames_error {turns : Nat} {rest : List Byte} {c o : Nat} {e : Err}
    (h : parseFrames turns rest c = .error (o, e)) :
    (c ≤ o ∧ o ≤ c + rest.length) ∧ (errCode e = 1 ∨ errCode e = 2 ∨ errCode e = 3 ∨ errCode e = 5) := by
  induction turns generalizing rest c with
  | zero => simp [parseFrames] at h
  | succ turns ih =>
    rcases parseFrames_succ turns rest c with
      ⟨-, h'⟩ | ⟨-, -, h'⟩ | ⟨-, -, h'⟩ | ⟨size, -, hs, ⟨e', hf, h'⟩ | ⟨x, -, ⟨⟨o', e'⟩, hr, h'⟩ | ⟨xs, -, h'⟩⟩⟩ <;>
      rw [h'] at h
    · cases h
    · cases h; exact ⟨by omega, by simp [errCode]⟩
    · cases h; exact ⟨by omega, by simp [errCode]⟩
    · cases h
      rcases frameCheck_error hf with rfl | ⟨_, _, -, rfl⟩ <;> exact ⟨by omega, by simp [errCode]⟩
    · cases h
      obtain ⟨⟨h1, h2⟩, h3⟩ := ih hr
      rw [List.length_drop] at h2
      exact ⟨by omega, h3⟩
    · cases h

/-- Everything the container parser can answer (43_container.md R181). -/
theorem containerParse_cases (p : Params) (s : List Byte) :
    ((s.length < 8 ∨ memRead s 0 8 ≠ p.sig.toList) ∧ containerParse p s = .error (0, .badSignature)) ∨
    (8 ≤ s.length ∧ memRead s 0 8 = p.sig.toList ∧
      ((∃ e, parseFrames s.length (s.drop 8) 8 = .error e ∧ containerParse p s = .error e) ∨
       (∃ cs, parseFrames s.length (s.drop 8) 8 = .ok cs ∧
          ((p.maxChunks < cs.length ∧ containerParse p s = .error (s.length, .capacityExceeded .maxChunks)) ∨
           (cs.length ≤ p.maxChunks ∧ p.storeCap < s.length - 8 ∧
              containerParse p s = .error (s.length, .capacityExceeded .storeCap)) ∨
           (cs.length ≤ p.maxChunks ∧ s.length - 8 ≤ p.storeCap ∧ containerParse p s = .ok cs))))) := by
  by_cases h0 : s.length < 8 ∨ memRead s 0 8 ≠ p.sig.toList
  · exact .inl ⟨h0, by simp only [containerParse, if_pos h0]⟩
  · refine .inr ⟨by omega, by_contra fun hh => h0 (.inr hh), ?_⟩
    cases hp : parseFrames s.length (s.drop 8) 8 with
    | error e => exact .inl ⟨e, rfl, by simp only [containerParse, if_neg h0, hp]⟩
    | ok cs =>
      refine .inr ⟨cs, rfl, ?_⟩
      by_cases h1 : cs.length > p.maxChunks
      · exact .inl ⟨h1, by simp only [containerParse, if_neg h0, hp, if_pos h1]⟩
      · by_cases h2 : s.length - 8 > p.storeCap
        · exact .inr (.inl ⟨by omega, h2, by simp only [containerParse, if_neg h0, hp, if_neg h1, if_pos h2]⟩)
        · exact .inr (.inr ⟨by omega, by omega, by simp only [containerParse, if_neg h0, hp, if_neg h1, if_neg h2]⟩)

/-- A key matches a chunk when it is the chunk's tag (43_container.md R180). -/
theorem chunkMatches_iff (c : Chunk) (k : Tag) : chunkMatches c k = true ↔ c.tag = k := by
  obtain ⟨⟨a, b, d, e⟩, p, q⟩ := c
  obtain ⟨a', b', d', e'⟩ := k
  simp [chunkMatches, and_assoc]

/-- The fields of a frame put together, read back (30_encoding.md R81, 20_memory.md R68). -/
theorem fields_of_frame {len : Word} {tag pay sum : List Byte} (ht : tag.length = 4) (hp : pay.length = len.toNat)
    (hs : sum.length = 4) {f : List Byte} (hf : f = be32 len ++ tag ++ pay ++ sum) :
    f.length = len.toNat + 12 ∧ unbe32 (memRead f 0 4) = len ∧ memRead f 4 4 = tag ∧
    memRead f 8 len.toNat = pay ∧ memRead f (8 + len.toNat) 4 = sum := by
  have e : f = be32 len ++ (tag ++ (pay ++ sum)) := by simp [hf, List.append_assoc]
  have h8 : 8 - (be32 len).length - tag.length = 0 := by simp [ht]
  have hk : 8 + len.toNat - (be32 len).length - tag.length - pay.length = 0 := by rw [be32_length]; omega
  refine ⟨by rw [e]; simp only [List.length_append, be32_length]; omega, ?_, ?_, ?_, ?_⟩ <;> rw [e]
  · rw [memRead_append_left (be32_length len), unbe32_be32]
  · rw [memRead_append_right (by simp), show 4 - (be32 len).length = 0 from rfl, memRead_append_left ht]
  · rw [memRead_append_right (by simp), memRead_append_right (by rw [be32_length]; omega), h8, memRead_append_left hp]
  · rw [memRead_append_right (by rw [be32_length]; omega), memRead_append_right (by rw [be32_length]; omega),
      memRead_append_right (by rw [be32_length]; omega), hk]
    simp [memRead, ← hs]

/-- A chunk's frame is no longer than the store it stands in. -/
theorem chunkFootprint_le {c : Chunk} {cs : List Chunk} (h : c ∈ cs) : chunkFootprint c ≤ storeFootprint cs := by
  induction cs with
  | nil => cases h
  | cons d cs ih =>
    rw [storeFootprint_cons]
    rcases List.mem_cons.1 h with rfl | h
    · omega
    · have := ih h
      omega

/-- Taking one chunk out shrinks the store by its footprint. -/
theorem storeFootprint_remove {cs : List Chunk} {i : Nat} {c : Chunk} (h : cs[i]? = some c) :
    storeFootprint (cs.take i ++ cs.drop (i + 1)) + chunkFootprint c = storeFootprint cs := by
  obtain ⟨hi, rfl⟩ := List.getElem?_eq_some_iff.1 h
  have e : cs = cs.take i ++ cs[i] :: cs.drop (i + 1) := by simp
  conv_rhs => rw [e]
  simp only [storeFootprint_append, storeFootprint_cons]
  omega

/-- A first match is a position of the store (43_container.md R185). -/
theorem firstMatch_lt {cs : List Chunk} {k : Tag} {i : Nat} (h : firstMatch cs k = some i) : i < cs.length := by
  simp only [firstMatch, List.findIdx?_eq_some_iff_getElem] at h
  exact h.1

end Sys2Proof.Machine
end

