-- ==== Sys2Proof/Laws/State.lean ====
section
/-! SUPPORT. Each writer of the state, field by field: the fields it writes and the fields it leaves, so that no proof
unfolds a record update. -/

namespace Sys2Proof.Machine

variable (s : State)

@[simp] theorem State.setStatus_t (code : Byte) (i0 i1 : Word) : (s.setStatus code i0 i1).t = s.t := rfl
@[simp] theorem State.setStatus_tv (code : Byte) (i0 i1 : Word) : (s.setStatus code i0 i1).tv = s.tv := rfl
@[simp] theorem State.setStatus_res (code : Byte) (i0 i1 : Word) : (s.setStatus code i0 i1).res = s.res := rfl
@[simp] theorem State.setStatus_crcacc (code : Byte) (i0 i1 : Word) : (s.setStatus code i0 i1).crcacc = s.crcacc := rfl
@[simp] theorem State.setStatus_err (code : Byte) (i0 i1 : Word) : (s.setStatus code i0 i1).err = code := rfl
@[simp] theorem State.setStatus_einfo0 (code : Byte) (i0 i1 : Word) : (s.setStatus code i0 i1).einfo0 = i0 := rfl
@[simp] theorem State.setStatus_einfo1 (code : Byte) (i0 i1 : Word) : (s.setStatus code i0 i1).einfo1 = i1 := rfl
@[simp] theorem State.setStatus_found (code : Byte) (i0 i1 : Word) : (s.setStatus code i0 i1).found = s.found := rfl
@[simp] theorem State.setStatus_cur (code : Byte) (i0 i1 : Word) : (s.setStatus code i0 i1).cur = s.cur := rfl
@[simp] theorem State.setStatus_idx (code : Byte) (i0 i1 : Word) : (s.setStatus code i0 i1).idx = s.idx := rfl
@[simp] theorem State.setStatus_w (code : Byte) (i0 i1 : Word) : (s.setStatus code i0 i1).w = s.w := rfl
@[simp] theorem State.setStatus_cs (code : Byte) (i0 i1 : Word) : (s.setStatus code i0 i1).cs = s.cs := rfl
@[simp] theorem State.setStatus_ibuf (code : Byte) (i0 i1 : Word) : (s.setStatus code i0 i1).ibuf = s.ibuf := rfl
@[simp] theorem State.setStatus_obuf (code : Byte) (i0 i1 : Word) : (s.setStatus code i0 i1).obuf = s.obuf := rfl
@[simp] theorem State.setStatus_cfg (code : Byte) (i0 i1 : Word) : (s.setStatus code i0 i1).cfg = s.cfg := rfl
@[simp] theorem State.setStatus_pending (code : Byte) (i0 i1 : Word) : (s.setStatus code i0 i1).pending = s.pending := rfl
@[simp] theorem State.setStatus_observed (code : Byte) (i0 i1 : Word) : (s.setStatus code i0 i1).observed = s.observed := rfl
@[simp] theorem State.setStatus_freeReads (code : Byte) (i0 i1 : Word) : (s.setStatus code i0 i1).freeReads = s.freeReads := rfl

@[simp] theorem State.setTag_t (k : Tag) : (s.setTag k).t = k := rfl
@[simp] theorem State.setTag_tv (k : Tag) : (s.setTag k).tv = true := rfl
@[simp] theorem State.setTag_res (k : Tag) : (s.setTag k).res = s.res := rfl
@[simp] theorem State.setTag_crcacc (k : Tag) : (s.setTag k).crcacc = s.crcacc := rfl
@[simp] theorem State.setTag_err (k : Tag) : (s.setTag k).err = s.err := rfl
@[simp] theorem State.setTag_einfo0 (k : Tag) : (s.setTag k).einfo0 = s.einfo0 := rfl
@[simp] theorem State.setTag_einfo1 (k : Tag) : (s.setTag k).einfo1 = s.einfo1 := rfl
@[simp] theorem State.setTag_found (k : Tag) : (s.setTag k).found = s.found := rfl
@[simp] theorem State.setTag_cur (k : Tag) : (s.setTag k).cur = s.cur := rfl
@[simp] theorem State.setTag_idx (k : Tag) : (s.setTag k).idx = s.idx := rfl
@[simp] theorem State.setTag_w (k : Tag) : (s.setTag k).w = s.w := rfl
@[simp] theorem State.setTag_cs (k : Tag) : (s.setTag k).cs = s.cs := rfl
@[simp] theorem State.setTag_ibuf (k : Tag) : (s.setTag k).ibuf = s.ibuf := rfl
@[simp] theorem State.setTag_obuf (k : Tag) : (s.setTag k).obuf = s.obuf := rfl
@[simp] theorem State.setTag_cfg (k : Tag) : (s.setTag k).cfg = s.cfg := rfl
@[simp] theorem State.setTag_pending (k : Tag) : (s.setTag k).pending = s.pending := rfl
@[simp] theorem State.setTag_observed (k : Tag) : (s.setTag k).observed = s.observed := rfl
@[simp] theorem State.setTag_freeReads (k : Tag) : (s.setTag k).freeReads = s.freeReads := rfl

@[simp] theorem State.setRes_t (v : Word) : (s.setRes v).t = s.t := rfl
@[simp] theorem State.setRes_tv (v : Word) : (s.setRes v).tv = s.tv := rfl
@[simp] theorem State.setRes_res (v : Word) : (s.setRes v).res = v := rfl
@[simp] theorem State.setRes_crcacc (v : Word) : (s.setRes v).crcacc = s.crcacc := rfl
@[simp] theorem State.setRes_err (v : Word) : (s.setRes v).err = s.err := rfl
@[simp] theorem State.setRes_einfo0 (v : Word) : (s.setRes v).einfo0 = s.einfo0 := rfl
@[simp] theorem State.setRes_einfo1 (v : Word) : (s.setRes v).einfo1 = s.einfo1 := rfl
@[simp] theorem State.setRes_found (v : Word) : (s.setRes v).found = s.found := rfl
@[simp] theorem State.setRes_cur (v : Word) : (s.setRes v).cur = s.cur := rfl
@[simp] theorem State.setRes_idx (v : Word) : (s.setRes v).idx = s.idx := rfl
@[simp] theorem State.setRes_w (v : Word) : (s.setRes v).w = s.w := rfl
@[simp] theorem State.setRes_cs (v : Word) : (s.setRes v).cs = s.cs := rfl
@[simp] theorem State.setRes_ibuf (v : Word) : (s.setRes v).ibuf = s.ibuf := rfl
@[simp] theorem State.setRes_obuf (v : Word) : (s.setRes v).obuf = s.obuf := rfl
@[simp] theorem State.setRes_cfg (v : Word) : (s.setRes v).cfg = s.cfg := rfl
@[simp] theorem State.setRes_pending (v : Word) : (s.setRes v).pending = s.pending := rfl
@[simp] theorem State.setRes_observed (v : Word) : (s.setRes v).observed = s.observed := rfl
@[simp] theorem State.setRes_freeReads (v : Word) : (s.setRes v).freeReads = s.freeReads := rfl

@[simp] theorem State.setCrcacc_t (v : Word) : (s.setCrcacc v).t = s.t := rfl
@[simp] theorem State.setCrcacc_tv (v : Word) : (s.setCrcacc v).tv = s.tv := rfl
@[simp] theorem State.setCrcacc_res (v : Word) : (s.setCrcacc v).res = s.res := rfl
@[simp] theorem State.setCrcacc_crcacc (v : Word) : (s.setCrcacc v).crcacc = v := rfl
@[simp] theorem State.setCrcacc_err (v : Word) : (s.setCrcacc v).err = s.err := rfl
@[simp] theorem State.setCrcacc_einfo0 (v : Word) : (s.setCrcacc v).einfo0 = s.einfo0 := rfl
@[simp] theorem State.setCrcacc_einfo1 (v : Word) : (s.setCrcacc v).einfo1 = s.einfo1 := rfl
@[simp] theorem State.setCrcacc_found (v : Word) : (s.setCrcacc v).found = s.found := rfl
@[simp] theorem State.setCrcacc_cur (v : Word) : (s.setCrcacc v).cur = s.cur := rfl
@[simp] theorem State.setCrcacc_idx (v : Word) : (s.setCrcacc v).idx = s.idx := rfl
@[simp] theorem State.setCrcacc_w (v : Word) : (s.setCrcacc v).w = s.w := rfl
@[simp] theorem State.setCrcacc_cs (v : Word) : (s.setCrcacc v).cs = s.cs := rfl
@[simp] theorem State.setCrcacc_ibuf (v : Word) : (s.setCrcacc v).ibuf = s.ibuf := rfl
@[simp] theorem State.setCrcacc_obuf (v : Word) : (s.setCrcacc v).obuf = s.obuf := rfl
@[simp] theorem State.setCrcacc_cfg (v : Word) : (s.setCrcacc v).cfg = s.cfg := rfl
@[simp] theorem State.setCrcacc_pending (v : Word) : (s.setCrcacc v).pending = s.pending := rfl
@[simp] theorem State.setCrcacc_observed (v : Word) : (s.setCrcacc v).observed = s.observed := rfl
@[simp] theorem State.setCrcacc_freeReads (v : Word) : (s.setCrcacc v).freeReads = s.freeReads := rfl

@[simp] theorem State.setMatch_t (f : Bool) (n : Nat) : (s.setMatch f n).t = s.t := rfl
@[simp] theorem State.setMatch_tv (f : Bool) (n : Nat) : (s.setMatch f n).tv = s.tv := rfl
@[simp] theorem State.setMatch_res (f : Bool) (n : Nat) : (s.setMatch f n).res = s.res := rfl
@[simp] theorem State.setMatch_crcacc (f : Bool) (n : Nat) : (s.setMatch f n).crcacc = s.crcacc := rfl
@[simp] theorem State.setMatch_err (f : Bool) (n : Nat) : (s.setMatch f n).err = s.err := rfl
@[simp] theorem State.setMatch_einfo0 (f : Bool) (n : Nat) : (s.setMatch f n).einfo0 = s.einfo0 := rfl
@[simp] theorem State.setMatch_einfo1 (f : Bool) (n : Nat) : (s.setMatch f n).einfo1 = s.einfo1 := rfl
@[simp] theorem State.setMatch_found (f : Bool) (n : Nat) : (s.setMatch f n).found = f := rfl
@[simp] theorem State.setMatch_cur (f : Bool) (n : Nat) : (s.setMatch f n).cur = s.cur := rfl
@[simp] theorem State.setMatch_idx (f : Bool) (n : Nat) : (s.setMatch f n).idx = reg32 n := rfl
@[simp] theorem State.setMatch_w (f : Bool) (n : Nat) : (s.setMatch f n).w = s.w := rfl
@[simp] theorem State.setMatch_cs (f : Bool) (n : Nat) : (s.setMatch f n).cs = s.cs := rfl
@[simp] theorem State.setMatch_ibuf (f : Bool) (n : Nat) : (s.setMatch f n).ibuf = s.ibuf := rfl
@[simp] theorem State.setMatch_obuf (f : Bool) (n : Nat) : (s.setMatch f n).obuf = s.obuf := rfl
@[simp] theorem State.setMatch_cfg (f : Bool) (n : Nat) : (s.setMatch f n).cfg = s.cfg := rfl
@[simp] theorem State.setMatch_pending (f : Bool) (n : Nat) : (s.setMatch f n).pending = s.pending := rfl
@[simp] theorem State.setMatch_observed (f : Bool) (n : Nat) : (s.setMatch f n).observed = s.observed := rfl
@[simp] theorem State.setMatch_freeReads (f : Bool) (n : Nat) : (s.setMatch f n).freeReads = s.freeReads := rfl

@[simp] theorem State.setCur_t (n : Nat) : (s.setCur n).t = s.t := rfl
@[simp] theorem State.setCur_tv (n : Nat) : (s.setCur n).tv = s.tv := rfl
@[simp] theorem State.setCur_res (n : Nat) : (s.setCur n).res = s.res := rfl
@[simp] theorem State.setCur_crcacc (n : Nat) : (s.setCur n).crcacc = s.crcacc := rfl
@[simp] theorem State.setCur_err (n : Nat) : (s.setCur n).err = s.err := rfl
@[simp] theorem State.setCur_einfo0 (n : Nat) : (s.setCur n).einfo0 = s.einfo0 := rfl
@[simp] theorem State.setCur_einfo1 (n : Nat) : (s.setCur n).einfo1 = s.einfo1 := rfl
@[simp] theorem State.setCur_found (n : Nat) : (s.setCur n).found = s.found := rfl
@[simp] theorem State.setCur_cur (n : Nat) : (s.setCur n).cur = reg32 n := rfl
@[simp] theorem State.setCur_idx (n : Nat) : (s.setCur n).idx = s.idx := rfl
@[simp] theorem State.setCur_w (n : Nat) : (s.setCur n).w = s.w := rfl
@[simp] theorem State.setCur_cs (n : Nat) : (s.setCur n).cs = s.cs := rfl
@[simp] theorem State.setCur_ibuf (n : Nat) : (s.setCur n).ibuf = s.ibuf := rfl
@[simp] theorem State.setCur_obuf (n : Nat) : (s.setCur n).obuf = s.obuf := rfl
@[simp] theorem State.setCur_cfg (n : Nat) : (s.setCur n).cfg = s.cfg := rfl
@[simp] theorem State.setCur_pending (n : Nat) : (s.setCur n).pending = s.pending := rfl
@[simp] theorem State.setCur_observed (n : Nat) : (s.setCur n).observed = s.observed := rfl
@[simp] theorem State.setCur_freeReads (n : Nat) : (s.setCur n).freeReads = s.freeReads := rfl

@[simp] theorem State.setWork_t (c : Option Chunk) : (s.setWork c).t = s.t := rfl
@[simp] theorem State.setWork_tv (c : Option Chunk) : (s.setWork c).tv = s.tv := rfl
@[simp] theorem State.setWork_res (c : Option Chunk) : (s.setWork c).res = s.res := rfl
@[simp] theorem State.setWork_crcacc (c : Option Chunk) : (s.setWork c).crcacc = s.crcacc := rfl
@[simp] theorem State.setWork_err (c : Option Chunk) : (s.setWork c).err = s.err := rfl
@[simp] theorem State.setWork_einfo0 (c : Option Chunk) : (s.setWork c).einfo0 = s.einfo0 := rfl
@[simp] theorem State.setWork_einfo1 (c : Option Chunk) : (s.setWork c).einfo1 = s.einfo1 := rfl
@[simp] theorem State.setWork_found (c : Option Chunk) : (s.setWork c).found = s.found := rfl
@[simp] theorem State.setWork_cur (c : Option Chunk) : (s.setWork c).cur = s.cur := rfl
@[simp] theorem State.setWork_idx (c : Option Chunk) : (s.setWork c).idx = s.idx := rfl
@[simp] theorem State.setWork_w (c : Option Chunk) : (s.setWork c).w = c := rfl
@[simp] theorem State.setWork_cs (c : Option Chunk) : (s.setWork c).cs = s.cs := rfl
@[simp] theorem State.setWork_ibuf (c : Option Chunk) : (s.setWork c).ibuf = s.ibuf := rfl
@[simp] theorem State.setWork_obuf (c : Option Chunk) : (s.setWork c).obuf = s.obuf := rfl
@[simp] theorem State.setWork_cfg (c : Option Chunk) : (s.setWork c).cfg = s.cfg := rfl
@[simp] theorem State.setWork_pending (c : Option Chunk) : (s.setWork c).pending = s.pending := rfl
@[simp] theorem State.setWork_observed (c : Option Chunk) : (s.setWork c).observed = s.observed := rfl
@[simp] theorem State.setWork_freeReads (c : Option Chunk) : (s.setWork c).freeReads = s.freeReads := rfl

@[simp] theorem State.setStore_t (l : List Chunk) : (s.setStore l).t = s.t := rfl
@[simp] theorem State.setStore_tv (l : List Chunk) : (s.setStore l).tv = s.tv := rfl
@[simp] theorem State.setStore_res (l : List Chunk) : (s.setStore l).res = s.res := rfl
@[simp] theorem State.setStore_crcacc (l : List Chunk) : (s.setStore l).crcacc = s.crcacc := rfl
@[simp] theorem State.setStore_err (l : List Chunk) : (s.setStore l).err = s.err := rfl
@[simp] theorem State.setStore_einfo0 (l : List Chunk) : (s.setStore l).einfo0 = s.einfo0 := rfl
@[simp] theorem State.setStore_einfo1 (l : List Chunk) : (s.setStore l).einfo1 = s.einfo1 := rfl
@[simp] theorem State.setStore_found (l : List Chunk) : (s.setStore l).found = s.found := rfl
@[simp] theorem State.setStore_cur (l : List Chunk) : (s.setStore l).cur = s.cur := rfl
@[simp] theorem State.setStore_idx (l : List Chunk) : (s.setStore l).idx = s.idx := rfl
@[simp] theorem State.setStore_w (l : List Chunk) : (s.setStore l).w = s.w := rfl
@[simp] theorem State.setStore_cs (l : List Chunk) : (s.setStore l).cs = l := rfl
@[simp] theorem State.setStore_ibuf (l : List Chunk) : (s.setStore l).ibuf = s.ibuf := rfl
@[simp] theorem State.setStore_obuf (l : List Chunk) : (s.setStore l).obuf = s.obuf := rfl
@[simp] theorem State.setStore_cfg (l : List Chunk) : (s.setStore l).cfg = s.cfg := rfl
@[simp] theorem State.setStore_pending (l : List Chunk) : (s.setStore l).pending = s.pending := rfl
@[simp] theorem State.setStore_observed (l : List Chunk) : (s.setStore l).observed = s.observed := rfl
@[simp] theorem State.setStore_freeReads (l : List Chunk) : (s.setStore l).freeReads = s.freeReads := rfl

@[simp] theorem State.setIbuf_t (l : List Byte) : (s.setIbuf l).t = s.t := rfl
@[simp] theorem State.setIbuf_tv (l : List Byte) : (s.setIbuf l).tv = s.tv := rfl
@[simp] theorem State.setIbuf_res (l : List Byte) : (s.setIbuf l).res = s.res := rfl
@[simp] theorem State.setIbuf_crcacc (l : List Byte) : (s.setIbuf l).crcacc = s.crcacc := rfl
@[simp] theorem State.setIbuf_err (l : List Byte) : (s.setIbuf l).err = s.err := rfl
@[simp] theorem State.setIbuf_einfo0 (l : List Byte) : (s.setIbuf l).einfo0 = s.einfo0 := rfl
@[simp] theorem State.setIbuf_einfo1 (l : List Byte) : (s.setIbuf l).einfo1 = s.einfo1 := rfl
@[simp] theorem State.setIbuf_found (l : List Byte) : (s.setIbuf l).found = s.found := rfl
@[simp] theorem State.setIbuf_cur (l : List Byte) : (s.setIbuf l).cur = s.cur := rfl
@[simp] theorem State.setIbuf_idx (l : List Byte) : (s.setIbuf l).idx = s.idx := rfl
@[simp] theorem State.setIbuf_w (l : List Byte) : (s.setIbuf l).w = s.w := rfl
@[simp] theorem State.setIbuf_cs (l : List Byte) : (s.setIbuf l).cs = s.cs := rfl
@[simp] theorem State.setIbuf_ibuf (l : List Byte) : (s.setIbuf l).ibuf = l := rfl
@[simp] theorem State.setIbuf_obuf (l : List Byte) : (s.setIbuf l).obuf = s.obuf := rfl
@[simp] theorem State.setIbuf_cfg (l : List Byte) : (s.setIbuf l).cfg = s.cfg := rfl
@[simp] theorem State.setIbuf_pending (l : List Byte) : (s.setIbuf l).pending = s.pending := rfl
@[simp] theorem State.setIbuf_observed (l : List Byte) : (s.setIbuf l).observed = s.observed := rfl
@[simp] theorem State.setIbuf_freeReads (l : List Byte) : (s.setIbuf l).freeReads = s.freeReads := rfl

@[simp] theorem State.setObuf_t (l : List Byte) : (s.setObuf l).t = s.t := rfl
@[simp] theorem State.setObuf_tv (l : List Byte) : (s.setObuf l).tv = s.tv := rfl
@[simp] theorem State.setObuf_res (l : List Byte) : (s.setObuf l).res = s.res := rfl
@[simp] theorem State.setObuf_crcacc (l : List Byte) : (s.setObuf l).crcacc = s.crcacc := rfl
@[simp] theorem State.setObuf_err (l : List Byte) : (s.setObuf l).err = s.err := rfl
@[simp] theorem State.setObuf_einfo0 (l : List Byte) : (s.setObuf l).einfo0 = s.einfo0 := rfl
@[simp] theorem State.setObuf_einfo1 (l : List Byte) : (s.setObuf l).einfo1 = s.einfo1 := rfl
@[simp] theorem State.setObuf_found (l : List Byte) : (s.setObuf l).found = s.found := rfl
@[simp] theorem State.setObuf_cur (l : List Byte) : (s.setObuf l).cur = s.cur := rfl
@[simp] theorem State.setObuf_idx (l : List Byte) : (s.setObuf l).idx = s.idx := rfl
@[simp] theorem State.setObuf_w (l : List Byte) : (s.setObuf l).w = s.w := rfl
@[simp] theorem State.setObuf_cs (l : List Byte) : (s.setObuf l).cs = s.cs := rfl
@[simp] theorem State.setObuf_ibuf (l : List Byte) : (s.setObuf l).ibuf = s.ibuf := rfl
@[simp] theorem State.setObuf_obuf (l : List Byte) : (s.setObuf l).obuf = l := rfl
@[simp] theorem State.setObuf_cfg (l : List Byte) : (s.setObuf l).cfg = s.cfg := rfl
@[simp] theorem State.setObuf_pending (l : List Byte) : (s.setObuf l).pending = s.pending := rfl
@[simp] theorem State.setObuf_observed (l : List Byte) : (s.setObuf l).observed = s.observed := rfl
@[simp] theorem State.setObuf_freeReads (l : List Byte) : (s.setObuf l).freeReads = s.freeReads := rfl

@[simp] theorem State.setPending_t (l : List HostAction) : (s.setPending l).t = s.t := rfl
@[simp] theorem State.setPending_tv (l : List HostAction) : (s.setPending l).tv = s.tv := rfl
@[simp] theorem State.setPending_res (l : List HostAction) : (s.setPending l).res = s.res := rfl
@[simp] theorem State.setPending_crcacc (l : List HostAction) : (s.setPending l).crcacc = s.crcacc := rfl
@[simp] theorem State.setPending_err (l : List HostAction) : (s.setPending l).err = s.err := rfl
@[simp] theorem State.setPending_einfo0 (l : List HostAction) : (s.setPending l).einfo0 = s.einfo0 := rfl
@[simp] theorem State.setPending_einfo1 (l : List HostAction) : (s.setPending l).einfo1 = s.einfo1 := rfl
@[simp] theorem State.setPending_found (l : List HostAction) : (s.setPending l).found = s.found := rfl
@[simp] theorem State.setPending_cur (l : List HostAction) : (s.setPending l).cur = s.cur := rfl
@[simp] theorem State.setPending_idx (l : List HostAction) : (s.setPending l).idx = s.idx := rfl
@[simp] theorem State.setPending_w (l : List HostAction) : (s.setPending l).w = s.w := rfl
@[simp] theorem State.setPending_cs (l : List HostAction) : (s.setPending l).cs = s.cs := rfl
@[simp] theorem State.setPending_ibuf (l : List HostAction) : (s.setPending l).ibuf = s.ibuf := rfl
@[simp] theorem State.setPending_obuf (l : List HostAction) : (s.setPending l).obuf = s.obuf := rfl
@[simp] theorem State.setPending_cfg (l : List HostAction) : (s.setPending l).cfg = s.cfg := rfl
@[simp] theorem State.setPending_pending (l : List HostAction) : (s.setPending l).pending = l := rfl
@[simp] theorem State.setPending_observed (l : List HostAction) : (s.setPending l).observed = s.observed := rfl
@[simp] theorem State.setPending_freeReads (l : List HostAction) : (s.setPending l).freeReads = s.freeReads := rfl

@[simp] theorem State.observe_t (o : Observation) : (s.observe o).t = s.t := rfl
@[simp] theorem State.observe_tv (o : Observation) : (s.observe o).tv = s.tv := rfl
@[simp] theorem State.observe_res (o : Observation) : (s.observe o).res = s.res := rfl
@[simp] theorem State.observe_crcacc (o : Observation) : (s.observe o).crcacc = s.crcacc := rfl
@[simp] theorem State.observe_err (o : Observation) : (s.observe o).err = s.err := rfl
@[simp] theorem State.observe_einfo0 (o : Observation) : (s.observe o).einfo0 = s.einfo0 := rfl
@[simp] theorem State.observe_einfo1 (o : Observation) : (s.observe o).einfo1 = s.einfo1 := rfl
@[simp] theorem State.observe_found (o : Observation) : (s.observe o).found = s.found := rfl
@[simp] theorem State.observe_cur (o : Observation) : (s.observe o).cur = s.cur := rfl
@[simp] theorem State.observe_idx (o : Observation) : (s.observe o).idx = s.idx := rfl
@[simp] theorem State.observe_w (o : Observation) : (s.observe o).w = s.w := rfl
@[simp] theorem State.observe_cs (o : Observation) : (s.observe o).cs = s.cs := rfl
@[simp] theorem State.observe_ibuf (o : Observation) : (s.observe o).ibuf = s.ibuf := rfl
@[simp] theorem State.observe_obuf (o : Observation) : (s.observe o).obuf = s.obuf := rfl
@[simp] theorem State.observe_cfg (o : Observation) : (s.observe o).cfg = s.cfg := rfl
@[simp] theorem State.observe_pending (o : Observation) : (s.observe o).pending = s.pending := rfl
@[simp] theorem State.observe_observed (o : Observation) : (s.observe o).observed = o :: s.observed := rfl
@[simp] theorem State.observe_freeReads (o : Observation) : (s.observe o).freeReads = s.freeReads := rfl

@[simp] theorem State.useFreeRead_t : s.useFreeRead.t = s.t := rfl
@[simp] theorem State.useFreeRead_tv : s.useFreeRead.tv = s.tv := rfl
@[simp] theorem State.useFreeRead_res : s.useFreeRead.res = s.res := rfl
@[simp] theorem State.useFreeRead_crcacc : s.useFreeRead.crcacc = s.crcacc := rfl
@[simp] theorem State.useFreeRead_err : s.useFreeRead.err = s.err := rfl
@[simp] theorem State.useFreeRead_einfo0 : s.useFreeRead.einfo0 = s.einfo0 := rfl
@[simp] theorem State.useFreeRead_einfo1 : s.useFreeRead.einfo1 = s.einfo1 := rfl
@[simp] theorem State.useFreeRead_found : s.useFreeRead.found = s.found := rfl
@[simp] theorem State.useFreeRead_cur : s.useFreeRead.cur = s.cur := rfl
@[simp] theorem State.useFreeRead_idx : s.useFreeRead.idx = s.idx := rfl
@[simp] theorem State.useFreeRead_w : s.useFreeRead.w = s.w := rfl
@[simp] theorem State.useFreeRead_cs : s.useFreeRead.cs = s.cs := rfl
@[simp] theorem State.useFreeRead_ibuf : s.useFreeRead.ibuf = s.ibuf := rfl
@[simp] theorem State.useFreeRead_obuf : s.useFreeRead.obuf = s.obuf := rfl
@[simp] theorem State.useFreeRead_cfg : s.useFreeRead.cfg = s.cfg := rfl
@[simp] theorem State.useFreeRead_pending : s.useFreeRead.pending = s.pending := rfl
@[simp] theorem State.useFreeRead_observed : s.useFreeRead.observed = s.observed := rfl
@[simp] theorem State.useFreeRead_freeReads : s.useFreeRead.freeReads = s.freeReads + 1 := rfl

end Sys2Proof.Machine
end

