-- ==== Sys2Proof/Laws/Ops.lean ====
section
/-! SUPPORT. What each shared operation can do, said once: the commits, the operand tests, the host actions, a step. -/

namespace Sys2Proof.Machine

variable {s t : State}

/-- Raising an error writes the status group and nothing else (60_exceptions.md R216). -/
theorem raise_eq (e : Err) (s : State) :
    raise e s = .next { s with err := errCode e, einfo0 := errInfo0 e, einfo1 := errInfo1 e } := rfl

/-- The success commit clears the status group and writes nothing else (60_exceptions.md R217). -/
theorem complete_eq (s : State) : complete s = .next { s with err := 0, einfo0 := 0, einfo1 := 0 } := rfl

theorem raise_next {e : Err} (h : raise e s = .next t) : t = s.setStatus (errCode e) (errInfo0 e) (errInfo1 e) := by
  cases h; rfl

theorem complete_next (h : complete s = .next t) : t = s.setStatus 0 0 0 := by
  cases h; rfl

/-- Every error has a code from 1 to 10 (60_exceptions.md R211). -/
theorem errCode_range (e : Err) : 1 ≤ (errCode e).toNat ∧ (errCode e).toNat ≤ 10 := by
  cases e <;> simp [errCode]

theorem errCode_ne_zero (e : Err) : errCode e ≠ 0 := by
  cases e <;> simp [errCode]

/-- A command that needs `T` runs its body on `T`, or raises OperandMissing(1) (60_exceptions.md R213). -/
theorem withTag_cases (s : State) (body : Tag → Result) :
    (s.tv = true ∧ withTag s body = body s.t) ∨
    (s.tv = false ∧ withTag s body = raise (.operandMissing .tagRegister) s) := by
  cases h : s.tv <;> simp [withTag, h]

/-- A command that needs `W` runs its body on the chunk in it, or raises OperandMissing(2) (60_exceptions.md R213). -/
theorem withChunk_cases (s : State) (body : Chunk → Result) :
    (∃ c, s.w = some c ∧ withChunk s body = body c) ∨
    (s.w = none ∧ withChunk s body = raise (.operandMissing .workingChunk) s) := by
  cases h : s.w with
  | some c => exact .inl ⟨c, rfl, by simp [withChunk, h]⟩
  | none => exact .inr ⟨rfl, by simp [withChunk, h]⟩

@[simp] theorem mapNext_raise (f : State → State) (e : Err) (s : State) :
    mapNext f (raise e s) = .next (f (s.setStatus (errCode e) (errInfo0 e) (errInfo1 e))) := rfl

@[simp] theorem mapNext_complete (f : State → State) (s : State) :
    mapNext f (complete s) = .next (f (s.setStatus 0 0 0)) := rfl

@[simp] theorem nextState_raise (e : Err) (s : State) :
    nextState? (raise e s) = some (s.setStatus (errCode e) (errInfo0 e) (errInfo1 e)) := rfl

@[simp] theorem nextState_complete (s : State) : nextState? (complete s) = some (s.setStatus 0 0 0) := rfl

/-- What a `HostCmd` does: the decoded command runs, or the word is illegal (30_encoding.md R90). -/
theorem hostCmd_cases (cw : CommandWord) (s : State) :
    (∃ i, decode cw = .ok i ∧ hostCmd cw s = exec i s) ∨
    (∃ e, decode cw = .error e ∧ hostCmd cw s = raise (.illegalCommand cw) s) := by
  cases h : decode cw with
  | ok i => exact .inl ⟨i, rfl, by simp [hostCmd, h]⟩
  | error e => exact .inr ⟨e, rfl, by simp [hostCmd, h]⟩

/-- What a `HostLoad` that answers did (10_state.md R44). -/
theorem hostLoad_next {bytes : List Byte} (h : hostLoad bytes s = .next t) :
    bytes.length ≤ s.cfg.bufCap ∧ t = s.setIbuf bytes := by
  unfold hostLoad at h
  split at h
  · exact ⟨‹_›, by cases h; rfl⟩
  · cases h

/-- What a `HostRead` does (10_state.md R44): it answers, only the host's record grows, and a read with an unspecified
value uses a free value up. -/
theorem hostRead_eq (n : Nat) (s : State) :
    hostRead n s = .next { s with
      observed := .register n (registerValue n s) :: s.observed
      freeReads := if readIsFree n s then s.freeReads + 1 else s.freeReads } := by
  unfold hostRead
  split <;> simp [State.observe, State.useFreeRead, *]

theorem readIsFree_iff {n : Nat} : readIsFree n s = true ↔ (n = 6 ∨ n = 7) ∧ s.tv = false := by
  simp [readIsFree, and_comm]

/-- A read does not look at the host's coming actions. -/
@[simp] theorem registerValue_setPending (n : Nat) (s : State) (l : List HostAction) :
    registerValue n (s.setPending l) = registerValue n s := by
  unfold registerValue; split <;> rfl

@[simp] theorem readIsFree_setPending (n : Nat) (s : State) (l : List HostAction) :
    readIsFree n (s.setPending l) = readIsFree n s := rfl

/-- A free read is within the width of its register (10_state.md R41). -/
theorem registerValue_free_lt (s : State) (h : s.tv = false) :
    (registerValue 6 s).toNat < 2 ^ 32 ∧ (registerValue 7 s).toNat < 2 ^ 8 := by
  simp only [registerValue, h, BitVec.toNat_setWidth, Bool.false_eq_true, if_false]
  omega

/-- What a step can be: the PCE idle, or the host's oldest action (00_scope.md R7). -/
theorem step_cases (s : State) :
    (s.pending = [] ∧ step s = .next s) ∨
    (∃ a rest, s.pending = a :: rest ∧ step s = hostAct a (s.setPending rest)) := by
  cases h : s.pending with
  | nil => exact .inl ⟨rfl, by simp [step, h]⟩
  | cons a rest => exact .inr ⟨a, rest, rfl, by simp [step, h]⟩

end Sys2Proof.Machine
end

