-- ==== Sys2Proof/Laws/Exec.lean ====
section
/-! SUPPORT. How a command can end, said once for all commands: it completes, or it raises an error of its row of
60_exceptions.md R219 in the state it started from, `CUR` or `FOUND` and `IDX` apart where its rule writes them. -/

namespace Sys2Proof.Machine

/-- The ways a command can end, from `s`, with outcome `r`. -/
inductive Ends (i : Instr) (s : State) (r : Result) : Prop where
  /-- The command completes in `u`, with the status group still to be cleared. -/
  | done (u : State) (h : r = complete u)
  /-- It raises `e` and writes nothing else. -/
  | failed (e : Err) (hc : canRaise i (errCode e) = true) (hr : ∀ k, i ≠ .ctRemove k) (h : r = raise e s)
  /-- A parser raises `e` and writes `CUR`. -/
  | failedAt (e : Err) (c : Nat) (hc : canRaise i (errCode e) = true) (hi : i = .chParse ∨ i = .ctParse)
      (h : r = raise e (s.setCur c))
  /-- CT.REMOVE finds no match. -/
  | absent (k : Tag) (hi : i = .ctRemove k) (h : r = raise (.chunkNotFound k) (s.setMatch false s.cs.length))

/-- An error of the container parser is one of 60_exceptions.md R219's row CT.PARSE, at an offset of the input. -/
theorem containerParse_error {p : Params} {l : List Byte} {c : Nat} {e : Err}
    (h : containerParse p l = .error (c, e)) : c ≤ l.length ∧ canRaise .ctParse (errCode e) = true := by
  rcases containerParse_cases p l with
    ⟨-, h'⟩ | ⟨h8, -, ⟨⟨c', e'⟩, hf, h'⟩ | ⟨cs, -, ⟨-, h'⟩ | ⟨-, -, h'⟩ | ⟨-, -, h'⟩⟩⟩ <;>
    rw [h'] at h <;> cases h
  · exact ⟨by omega, rfl⟩
  · obtain ⟨⟨-, h2⟩, h3⟩ := parseFrames_error hf
    rw [List.length_drop] at h2
    refine ⟨by omega, ?_⟩
    rcases h3 with h | h | h | h <;> rw [h] <;> rfl
  · exact ⟨le_refl _, rfl⟩
  · exact ⟨le_refl _, rfl⟩

/-- A command that needs `W` ends as its body ends, or fails with OperandMissing(2). -/
theorem ends_withChunk {i : Instr} {s : State} {body : Chunk → Result} (hc : canRaise i 9 = true)
    (hr : ∀ k, i ≠ .ctRemove k) (h : ∀ c, s.w = some c → Ends i s (body c)) : Ends i s (withChunk s body) := by
  rcases withChunk_cases s body with ⟨c, hw, h'⟩ | ⟨-, h'⟩ <;> rw [h']
  · exact h c hw
  · exact .failed (.operandMissing .workingChunk) hc hr rfl

/-- Every command ends in one of the four ways, from every state. -/
theorem exec_ends (i : Instr) (s : State) : Ends i s (exec i s) := by
  cases i with
  | nop => exact .done _ rfl
  | crcInit => exact .done _ rfl
  | crcByte b => exact .done _ rfl
  | crcBuf => exact .done _ rfl
  | crcFinal => exact .done _ rfl
  | tagLoad k => exact .done _ rfl
  | tagParse =>
    simp only [exec, execTagParse]
    split
    · exact .failed _ rfl (by simp) rfl
    · split
      · exact .done _ rfl
      · exact .failed _ rfl (by simp) rfl
  | chBuild =>
    simp only [exec, execChBuild]
    rcases withTag_cases s _ with ⟨-, h⟩ | ⟨-, h⟩ <;> rw [h]
    · exact .done _ rfl
    · exact .failed _ rfl (by simp) rfl
  | chLen => exact ends_withChunk rfl (by simp) fun _ _ => .done _ rfl
  | chCrc => exact ends_withChunk rfl (by simp) fun _ _ => .done _ rfl
  | chSer =>
    refine ends_withChunk rfl (by simp) fun c _ => ?_
    split
    · exact .failed _ rfl (by simp) rfl
    · exact .done _ rfl
  | chParse =>
    simp only [exec, execChParse]
    split
    · rename_i e h
      refine .failedAt e 0 ?_ (.inl rfl) rfl
      rcases chunkParse_error h with h | h | h | h <;> rw [h] <;> rfl
    · exact .done _ rfl
  | chData => exact ends_withChunk rfl (by simp) fun _ _ => .done _ rfl
  | chTag => exact ends_withChunk rfl (by simp) fun _ _ => .done _ rfl
  | ctParse =>
    simp only [exec, execCtParse]
    split
    · exact .failedAt _ _ (containerParse_error ‹_›).2 (.inr rfl) rfl
    · exact .done _ rfl
  | ctAppend =>
    refine ends_withChunk rfl (by simp) fun c _ => ?_
    split
    · exact .failed _ rfl (by simp) rfl
    · split
      · exact .failed _ rfl (by simp) rfl
      · exact .done _ rfl
  | ctFind k =>
    simp only [exec, execCtFind]
    split
    · exact .done _ rfl
    · exact .done _ rfl
  | ctRemove k =>
    simp only [exec, execCtRemove]
    split
    · exact .done _ rfl
    · exact .absent k rfl rfl
  | ctSer =>
    simp only [exec, execCtSer]
    split
    · exact .failed _ rfl (by simp) rfl
    · exact .done _ rfl

end Sys2Proof.Machine
end

