-- ==== Sys2Proof/Laws/Memory.lean ====
section
/-! SUPPORT. Every operation that writes a buffer keeps it within its capacity (10_state.md R37, R38), and the buffers
are so after reset. -/

namespace Sys2Proof.Machine

variable {s t : State}

theorem reset_memory_wf : Memory.wf State.reset := by decide

/-- `Reset` leaves both buffers empty, whatever the parameters (10_state.md R45). -/
theorem hostReset_memory_wf (h : hostReset s = .next t) : Memory.wf t := by
  cases h
  simp [Memory.wf, State.resetWith]

/-- `HostLoad` takes no more than fits (10_state.md R44). -/
theorem hostLoad_memory_wf {bytes : List Byte} (hw : Memory.wf s) (h : hostLoad bytes s = .next t) : Memory.wf t := by
  obtain ⟨hb, rfl⟩ := hostLoad_next h
  exact ⟨hb, hw.2⟩

/-- The writers of the other fields do not touch a buffer; the status group is one of them. -/
theorem setStatus_memory_wf (hw : Memory.wf s) (code : Byte) (i0 i1 : Word) : Memory.wf (s.setStatus code i0 i1) := hw

/-- CH.SER writes only what fits (42_chunk.md R164). -/
theorem execChSer_memory_wf (hw : Memory.wf s) (h : execChSer s = .next t) : Memory.wf t := by
  rcases withChunk_cases s _ with ⟨c, -, h'⟩ | ⟨-, h'⟩ <;> rw [execChSer, h'] at h
  · split at h
    · rw [raise_next h]; exact hw
    · rw [complete_next h]
      refine ⟨hw.1, ?_⟩
      simp only [State.setStatus_obuf, State.setObuf_obuf, State.setStatus_cfg, State.setObuf_cfg, State.setWork_cfg,
        ser_length, chunkFootprint]
      omega
  · rw [raise_next h]; exact hw

/-- CH.DATA writes a payload, which the chunk's own bound lets fit (42_chunk.md R166). -/
theorem execChData_memory_wf (hw : Memory.wf s) (hc : ∀ c ∈ s.w, ChunkOk s.cfg c) (h : execChData s = .next t) :
    Memory.wf t := by
  rcases withChunk_cases s _ with ⟨c, hs, h'⟩ | ⟨-, h'⟩ <;> rw [execChData, h'] at h
  · rw [complete_next h]
    exact ⟨hw.1, (hc c (by simp [hs])).1⟩
  · rw [raise_next h]; exact hw

/-- CT.SER writes only what fits (43_container.md R189). -/
theorem execCtSer_memory_wf (hw : Memory.wf s) (h : execCtSer s = .next t) : Memory.wf t := by
  unfold execCtSer at h
  split at h
  · rw [raise_next h]; exact hw
  · rw [complete_next h]
    refine ⟨hw.1, ?_⟩
    simp only [State.setStatus_obuf, State.setObuf_obuf, State.setStatus_cfg, State.setObuf_cfg, State.setStore_cfg,
      cser_length]
    omega

end Sys2Proof.Machine
end

