-- ==== Sys2Proof/Laws/PerInstr.lean ====
section
/-! SUPPORT. One lemma per constructor of `Instr` about its command word: the opcode and operand fields hold what
30_encoding.md R89 and R91 put there, and the word selects a row of R93. -/

namespace Sys2Proof

/-- The opcode field of a word put together from its two fields (30_encoding.md R89). -/
theorem opField_append (op : Byte) (arg : Word) : opField (op ++ arg : CommandWord) = op := by
  apply BitVec.eq_of_getLsbD_eq
  intro i hi
  simp only [opField, BitVec.getLsbD_extractLsb', BitVec.getLsbD_append]
  simp [hi]

/-- The operand field of a word put together from its two fields (30_encoding.md R89). -/
theorem argField_append (op : Byte) (arg : Word) : argField (op ++ arg : CommandWord) = arg := by
  apply BitVec.eq_of_getLsbD_eq
  intro i hi
  simp only [argField, BitVec.getLsbD_extractLsb', BitVec.getLsbD_append]
  simp [hi]

/-- A word is its two fields (30_encoding.md R89). -/
theorem fields_append (cw : CommandWord) : (opField cw ++ argField cw : CommandWord) = cw := by
  apply BitVec.eq_of_getLsbD_eq
  intro i hi
  simp only [opField, argField, BitVec.getLsbD_append, BitVec.getLsbD_extractLsb']
  by_cases h : i < 32
  · simp [h]
  · have a : i - 32 < 8 := by omega
    have e : 32 + (i - 32) = i := by omega
    simp [h, a, e]

/-- A format K word selects its row whatever the operand (30_encoding.md R91). -/
theorem formatK_masked (op : Byte) (arg : Word) :
    (op ++ arg : CommandWord) &&& 0xFF00000000 = op ++ (0 : Word) := by
  have hm : (0xFF00000000 : CommandWord) = (0xFF : Byte) ++ (0 : Word) := by decide
  have ho : op &&& 0xFF = op := by
    simpa using BitVec.and_allOnes (x := op)
  rw [hm, BitVec.and_append, ho]
  simp

/-- A format B word selects its row whatever the byte (30_encoding.md R91). -/
theorem formatB_masked (op b : Byte) :
    (op ++ b.setWidth 32 : CommandWord) &&& 0xFFFFFFFF00 = op ++ (0 : Word) := by
  have hm : (0xFFFFFFFF00 : CommandWord) = (0xFF : Byte) ++ (0xFFFFFF00 : Word) := by decide
  have ho : op &&& 0xFF = op := by
    simpa using BitVec.and_allOnes (x := op)
  have hb : b.setWidth 32 &&& (0xFFFFFF00 : Word) = 0 := by
    have h24 : (0xFFFFFF00 : Word) = (0xFFFFFF : BitVec 24) ++ (0 : Byte) := by decide
    have hz : (b.setWidth 32 : Word) = (0 : BitVec 24) ++ b := by
      apply BitVec.eq_of_getLsbD_eq
      intro i hi
      rw [BitVec.getLsbD_append, BitVec.getLsbD_setWidth]
      by_cases h : i < 8
      · simp [h, hi]
      · simp [h, BitVec.getLsbD_of_ge b i (by omega)]
    rw [h24, hz, BitVec.and_append]
    simp
  rw [hm, BitVec.and_append, ho, hb]

/-- The word of `i` holds its opcode and its operand, and selects a row of the opcode map. -/
def Laws.WordOf.Statement (i : Instr) : Prop :=
  opField (encode i) = opcodeOf i ∧ argField (encode i) = operandOf i ∧ wellFormedWord (encode i) = true

theorem Laws.WordOf.nop : Laws.WordOf.Statement .nop := by
  unfold Laws.WordOf.Statement
  decide

theorem Laws.WordOf.crcInit : Laws.WordOf.Statement .crcInit := by
  unfold Laws.WordOf.Statement
  decide

theorem Laws.WordOf.crcByte (b : Byte) : Laws.WordOf.Statement (.crcByte b) := by
  refine ⟨opField_append _ _, argField_append _ _, ?_⟩
  have h := formatB_masked 0x11 b
  simp only [wellFormedWord, opcodeTable, List.any_append, List.any_cons, OpcodeRow.selects, encode, opcodeOf, operandOf, h]
  decide +revert

theorem Laws.WordOf.crcBuf : Laws.WordOf.Statement .crcBuf := by
  unfold Laws.WordOf.Statement
  decide

theorem Laws.WordOf.crcFinal : Laws.WordOf.Statement .crcFinal := by
  unfold Laws.WordOf.Statement
  decide

theorem Laws.WordOf.tagLoad (k : Tag) : Laws.WordOf.Statement (.tagLoad k) := by
  refine ⟨opField_append _ _, argField_append _ _, ?_⟩
  have h := formatK_masked 0x20 (Machine.tagWord k)
  simp only [wellFormedWord, opcodeTable, List.any_append, List.any_cons, OpcodeRow.selects, encode, opcodeOf, operandOf, h]
  simp

theorem Laws.WordOf.tagParse : Laws.WordOf.Statement .tagParse := by
  unfold Laws.WordOf.Statement
  decide

theorem Laws.WordOf.chBuild : Laws.WordOf.Statement .chBuild := by
  unfold Laws.WordOf.Statement
  decide

theorem Laws.WordOf.chLen : Laws.WordOf.Statement .chLen := by
  unfold Laws.WordOf.Statement
  decide

theorem Laws.WordOf.chCrc : Laws.WordOf.Statement .chCrc := by
  unfold Laws.WordOf.Statement
  decide

theorem Laws.WordOf.chSer : Laws.WordOf.Statement .chSer := by
  unfold Laws.WordOf.Statement
  decide

theorem Laws.WordOf.chParse : Laws.WordOf.Statement .chParse := by
  unfold Laws.WordOf.Statement
  decide

theorem Laws.WordOf.chData : Laws.WordOf.Statement .chData := by
  unfold Laws.WordOf.Statement
  decide

theorem Laws.WordOf.chTag : Laws.WordOf.Statement .chTag := by
  unfold Laws.WordOf.Statement
  decide

theorem Laws.WordOf.ctParse : Laws.WordOf.Statement .ctParse := by
  unfold Laws.WordOf.Statement
  decide

theorem Laws.WordOf.ctAppend : Laws.WordOf.Statement .ctAppend := by
  unfold Laws.WordOf.Statement
  decide

theorem Laws.WordOf.ctFind (k : Tag) : Laws.WordOf.Statement (.ctFind k) := by
  refine ⟨opField_append _ _, argField_append _ _, ?_⟩
  have h := formatK_masked 0x42 (Machine.tagWord k)
  simp only [wellFormedWord, opcodeTable, List.any_append, List.any_cons, OpcodeRow.selects, encode, opcodeOf, operandOf, h]
  simp

theorem Laws.WordOf.ctRemove (k : Tag) : Laws.WordOf.Statement (.ctRemove k) := by
  refine ⟨opField_append _ _, argField_append _ _, ?_⟩
  have h := formatK_masked 0x43 (Machine.tagWord k)
  simp only [wellFormedWord, opcodeTable, List.any_append, List.any_cons, OpcodeRow.selects, encode, opcodeOf, operandOf, h]
  simp

theorem Laws.WordOf.ctSer : Laws.WordOf.Statement .ctSer := by
  unfold Laws.WordOf.Statement
  decide

end Sys2Proof
end

