-- ==== Sys2Proof/Tests/Slice0.lean ====
section
/-! SUPPORT. The model's own tests. Expected values are those of 95_test_vectors.md (named V-... or P...) and of the
rules' examples, none is the model's own answer. A decode test writes the word's two fields out bit by bit; a step test
is one step from a small state. The witnesses show, for every statement with hypotheses, a state and operands that meet
them, clause by clause and at the bounds. -/

namespace Sys2Proof.Tests

open Sys2Proof.Machine

/-! ### Small data (95_test_vectors.md) -/

def rust : Tag := ⟨0x52, 0x75, 0x53, 0x74⟩

def iend : Tag := ⟨0x49, 0x45, 0x4E, 0x44⟩

def testTag : Tag := ⟨0x74, 0x65, 0x53, 0x74⟩

/-- The default `SIG`. -/
def sig : List Byte := [0x89, 0x50, 0x4E, 0x47, 0x0D, 0x0A, 0x1A, 0x0A]

/-- `F_IEND`. -/
def iendFrame : List Byte := [0, 0, 0, 0, 0x49, 0x45, 0x4E, 0x44, 0xAE, 0x42, 0x60, 0x82]

/-- `F_IEND` with its last byte 83 (V-CH-18). -/
def badSumFrame : List Byte := [0, 0, 0, 0, 0x49, 0x45, 0x4E, 0x44, 0xAE, 0x42, 0x60, 0x83]

/-- A frame with a bad tag and a bad checksum (V-CH-17). -/
def badTagFrame : List Byte := [0, 0, 0, 0, 0x49, 0x45, 0x31, 0x44, 0, 0, 0, 0]

/-- The serialization of tag `Rust`, empty payload (V-CH-6). -/
def reservedFrame : List Byte := [0, 0, 0, 0, 0x52, 0x75, 0x73, 0x74, 0x41, 0x00, 0x2D, 0x9E]

def iendChunk : Chunk := ⟨iend, [], none⟩

/-- Tag `RuSt`, payload `12345678` (V-CH-20): its frame is 20 bytes. -/
def eightChunk : Chunk := ⟨rust, [0x31, 0x32, 0x33, 0x34, 0x35, 0x36, 0x37, 0x38], none⟩

/-- Tag `RuSt`, payload `123456789` (V-CH-19): its frame is 21 bytes. -/
def nineChunk : Chunk := ⟨rust, [0x31, 0x32, 0x33, 0x34, 0x35, 0x36, 0x37, 0x38, 0x39], none⟩

/-- The two chunks of V-CT-23. -/
def oneChunk : Chunk := ⟨testTag, [0x6F, 0x6E, 0x65], none⟩

def twoChunk : Chunk := ⟨testTag, [0x74, 0x77, 0x6F], none⟩

/-- A chunk whose tag `Ru1t` is not alphabetic (V-CH-8). -/
def rawChunk : Chunk := ⟨⟨0x52, 0x75, 0x31, 0x74⟩, [], none⟩

/-- Parameters small enough to meet each limit. -/
def small : Params := { Params.default with bufCap := 20, maxChunks := 2, storeCap := 24 }

/-- Reset, then an input loaded. -/
def loaded (bytes : List Byte) : State := { State.reset with ibuf := bytes }

/-- Reset, with a chunk in `W`. -/
def holding (c : Chunk) : State := { State.reset with w := some c }

/-- Reset, with a store. -/
def storing (cs : List Chunk) : State := { State.reset with cs := cs }

/-- The state after a command, for the value of one part of it. -/
def after (i : Instr) (s : State) : State := (nextState? (exec i s)).getD State.reset

/-- The status group. -/
def status (s : State) : Byte × Word × Word := (s.err, s.einfo0, s.einfo1)

/-! ### Decode: words written out from 30_encoding.md R89 and R93 -/

theorem test_decode_nop : decode ((0b00000000 : Byte) ++ (0b00000000000000000000000000000000 : Word)) = .ok .nop := by
  decide

theorem test_decode_crcInit : decode ((0b00010000 : Byte) ++ (0b00000000000000000000000000000000 : Word)) =
    .ok .crcInit := by decide

theorem test_decode_crcByte : decode ((0b00010001 : Byte) ++ (0b00000000000000000000000001010010 : Word)) =
    .ok (.crcByte 0x52) := by decide

theorem test_decode_crcBuf : decode ((0b00010010 : Byte) ++ (0b00000000000000000000000000000000 : Word)) =
    .ok .crcBuf := by decide

theorem test_decode_crcFinal : decode ((0b00010011 : Byte) ++ (0b00000000000000000000000000000000 : Word)) =
    .ok .crcFinal := by decide

theorem test_decode_tagLoad : decode ((0b00100000 : Byte) ++ (0b01010010011101010101001101110100 : Word)) =
    .ok (.tagLoad rust) := by decide

theorem test_decode_tagParse : decode ((0b00100001 : Byte) ++ (0b00000000000000000000000000000000 : Word)) =
    .ok .tagParse := by decide

theorem test_decode_chBuild : decode ((0b00110000 : Byte) ++ (0b00000000000000000000000000000000 : Word)) =
    .ok .chBuild := by decide

theorem test_decode_chLen : decode ((0b00110001 : Byte) ++ (0b00000000000000000000000000000000 : Word)) =
    .ok .chLen := by decide

theorem test_decode_chCrc : decode ((0b00110010 : Byte) ++ (0b00000000000000000000000000000000 : Word)) =
    .ok .chCrc := by decide

theorem test_decode_chSer : decode ((0b00110011 : Byte) ++ (0b00000000000000000000000000000000 : Word)) =
    .ok .chSer := by decide

theorem test_decode_chParse : decode ((0b00110100 : Byte) ++ (0b00000000000000000000000000000000 : Word)) =
    .ok .chParse := by decide

theorem test_decode_chData : decode ((0b00110101 : Byte) ++ (0b00000000000000000000000000000000 : Word)) =
    .ok .chData := by decide

theorem test_decode_chTag : decode ((0b00110110 : Byte) ++ (0b00000000000000000000000000000000 : Word)) =
    .ok .chTag := by decide

theorem test_decode_ctParse : decode ((0b01000000 : Byte) ++ (0b00000000000000000000000000000000 : Word)) =
    .ok .ctParse := by decide

theorem test_decode_ctAppend : decode ((0b01000001 : Byte) ++ (0b00000000000000000000000000000000 : Word)) =
    .ok .ctAppend := by decide

theorem test_decode_ctFind : decode ((0b01000010 : Byte) ++ (0b01001001010001010100111001000100 : Word)) =
    .ok (.ctFind iend) := by decide

theorem test_decode_ctRemove : decode ((0b01000011 : Byte) ++ (0b01001001010001010100111001000100 : Word)) =
    .ok (.ctRemove iend) := by decide

theorem test_decode_ctSer : decode ((0b01000100 : Byte) ++ (0b00000000000000000000000000000000 : Word)) =
    .ok .ctSer := by decide

/-- The words of V-CH-22, V-CRC-24 and V-CRC-25 are rejected, each by its reason (30_encoding.md R94). -/
theorem test_decode_rejects : decode 0x0500000000 = .error (.unlistedOpcode 0x05) ∧
    decode 0xFFFFFFFFFF = .error (.unlistedOpcode 0xFF) ∧ decode 0x1100000100 = .error (.operandTooWide 0x100) ∧
    decode 0x1000000001 = .error (.operandNotZero 1) := by decide

/-- The bits of a word given as the opcode table numbers them; a value past 40 bits is no word (log entry 13). -/
theorem test_table_word : decodeTableWord 40 0x1100000052 = some (.crcByte 0x52) ∧ decodeTableWord 40 0x0500000000 = none ∧
    decodeTableWord 48 0x010000000000 = none := by decide

/-! ### WellFormed: an ill-formed term for each check -/

/-- Each constraint of 00_scope.md R5, broken alone; the defaults keep them all. -/
theorem test_params_wf : Params.default.wf = true ∧ small.wf = true ∧
    { Params.default with bufCap := 11 }.wf = false ∧ { Params.default with bufCap := 4294967296 }.wf = false ∧
    { Params.default with maxChunks := 0 }.wf = false ∧ { Params.default with maxChunks := 4294967296 }.wf = false ∧
    { Params.default with storeCap := 11 }.wf = false := by decide

/-- An unlisted opcode, a format N word with an operand, a format B word with a wide one (30_encoding.md R94). -/
theorem test_wellFormedWord : wellFormedWord 0x1100000052 = true ∧ wellFormedWord 0x0500000000 = false ∧
    wellFormedWord 0x1000000001 = false ∧ wellFormedWord 0x1100000100 = false := by decide

/-- A load one byte longer than `BUF_CAP` (10_state.md R44). -/
theorem test_hostAction_wf : (HostAction.load (List.replicate 20 0)).wf small = true ∧
    (HostAction.load (List.replicate 21 0)).wf small = false := by decide

/-! ### The pure functions -/

/-- V-CRC-1, V-CRC-3, V-CRC-5, V-CRC-8. -/
theorem test_crc32 : crc32 [] = 0 ∧ crc32 [0x31, 0x32, 0x33, 0x34, 0x35, 0x36, 0x37, 0x38, 0x39] = 0xCBF43926 ∧
    crc32 [0xFF] = 0xFF000000 ∧ crc32 [0x49, 0x45, 0x4E, 0x44] = 0xAE426082 := by decide +kernel

/-- `alpha` at the ends of the two ranges (41_tag.md R130). -/
theorem test_alpha : alpha 64 = false ∧ alpha 65 = true ∧ alpha 90 = true ∧ alpha 91 = false ∧ alpha 96 = false ∧
    alpha 97 = true ∧ alpha 122 = true ∧ alpha 123 = false := by decide

/-- V-TAG-1, V-TAG-2, V-TAG-5, V-TAG-7, V-TAG-8. -/
theorem test_tagFlags : tagFlags rust = 0x3D ∧ tagFlags ⟨0x52, 0x75, 0x73, 0x74⟩ = 0x19 ∧
    tagFlags ⟨0x52, 0x75, 0x53, 0x54⟩ = 0x35 ∧ tagFlags ⟨0x74, 0x45, 0x58, 0x74⟩ = 0x3E ∧
    tagFlags ⟨0x52, 0x75, 0x31, 0x74⟩ = 0x09 := by decide

/-- V-CH-6, V-CT-24. -/
theorem test_ser : ser ⟨⟨0x52, 0x75, 0x73, 0x74⟩, [], none⟩ = reservedFrame ∧
    ser oneChunk = [0, 0, 0, 3, 0x74, 0x65, 0x53, 0x74, 0x6F, 0x6E, 0x65, 0xC3, 0xB1, 0x68, 0x9C] ∧
    ser twoChunk = [0, 0, 0, 3, 0x74, 0x65, 0x53, 0x74, 0x74, 0x77, 0x6F, 0xA8, 0x17, 0x64, 0x0B] := by decide +kernel

/-! ### One step of each command -/

/-- V-CH-21. -/
theorem test_nop : status (after .nop { State.reset with err := 5, einfo0 := 1, einfo1 := 2 }) = (0, 0, 0) := by decide

/-- 40_crc.md R116. -/
theorem test_crcInit : (after .crcInit { State.reset with crcacc := 0 }).crcacc = 0xFFFFFFFF := by decide

/-- V-CRC-20. -/
theorem test_crcByte : (after (.crcByte 0x52) State.reset).crcacc = 0xA89820AA := by decide +kernel

/-- P4 step 3; V-CRC-23. -/
theorem test_crcBuf : (after .crcBuf (loaded (tagBytes rust))).crcacc = 0x2B7BF6C3 ∧
    (after .crcBuf State.reset).crcacc = 0xFFFFFFFF := by decide +kernel

/-- P4 step 6; V-CRC-22. -/
theorem test_crcFinal : (after .crcFinal { State.reset with crcacc := 0x542E27B1 }).res = 0xABD1D84E ∧
    (after .crcFinal State.reset).res = 0 := by decide

/-- V-TAG-10. -/
theorem test_tagLoad : (after (.tagLoad ⟨0x52, 0x75, 0x73, 0x74⟩) State.reset).t = ⟨0x52, 0x75, 0x73, 0x74⟩ ∧
    statusView (after (.tagLoad ⟨0x52, 0x75, 0x73, 0x74⟩) State.reset) = 0x01 := by decide

/-- V-TAG-9. -/
theorem test_tagParse : (after .tagParse (loaded (tagBytes rust))).t = rust := by decide

/-- V-TAG-14: the length is tested first; V-TAG-12. -/
theorem test_tagParse_fails : status (after .tagParse (loaded [0x52, 0x75, 0x31, 0x74, 0x78])) = (1, 1, 0) ∧
    status (after .tagParse (loaded [0x52, 0x75, 0x31, 0x74])) = (1, 2, 0) := by decide

/-- 42_chunk.md R160; V-CH-1. -/
theorem test_chBuild : (after .chBuild { State.reset with t := rust, tv := true, ibuf := eightChunk.payload }).w =
    some eightChunk ∧ status (after .chBuild State.reset) = (9, 1, 0) := by decide

/-- 42_chunk.md R161; V-CH-2. -/
theorem test_chLen : (after .chLen (holding nineChunk)).res = 9 ∧ status (after .chLen State.reset) = (9, 2, 0) := by
  decide

/-- V-CH-6. -/
theorem test_chCrc : (after .chCrc (holding ⟨⟨0x52, 0x75, 0x73, 0x74⟩, [], none⟩)).res = 0x41002D9E := by decide +kernel

/-- V-CH-6. -/
theorem test_chSer : (after .chSer (holding ⟨⟨0x52, 0x75, 0x73, 0x74⟩, [], none⟩)).obuf = reservedFrame := by
  decide +kernel

/-- V-CH-19 and V-CH-20: 21 bytes do not fit 20, 20 do. -/
theorem test_chSer_capacity : status (after .chSer { holding nineChunk with cfg := small }) = (10, 1, 0) ∧
    (after .chSer { holding eightChunk with cfg := small }).obuf.length = 20 := by decide +kernel

/-- V-CH-10: the reserved bit is not tested. -/
theorem test_chParse : statusView (after .chParse (loaded reservedFrame)) = 0x02 ∧
    (after .chParse (loaded reservedFrame)).cur = 12 := by decide +kernel

/-- V-CH-16: `L + 12` does not wrap; V-CH-17: the tag is tested before the checksum. -/
theorem test_chParse_fails :
    status (after .chParse (loaded [0xFF, 0xFF, 0xFF, 0xFF, 0x49, 0x45, 0x4E, 0x44, 0xAE, 0x42, 0x60, 0x82])) =
      (3, 0xFFFFFFFF, 12) ∧
    status (after .chParse (loaded badTagFrame)) = (1, 2, 0) := by decide +kernel

/-- V-CH-5 in small. -/
theorem test_chData : (after .chData (holding oneChunk)).obuf = [0x6F, 0x6E, 0x65] := by decide

/-- V-CH-11. -/
theorem test_chTag : tagWord (after .chTag (holding iendChunk)).t = 0x49454E44 ∧
    tagFlags (after .chTag (holding iendChunk)).t = 0x37 := by decide

/-- V-CT-9: the first faulty frame wins. -/
theorem test_ctParse_fails : status (after .ctParse (loaded (sig ++ badSumFrame ++ badTagFrame))) =
      (5, 0xAE426082, 0xAE426083) ∧
    (after .ctParse (loaded (sig ++ badSumFrame ++ badTagFrame))).cur = 8 := by decide +kernel

/-- V-CT-11 and V-CT-12: the two capacities. -/
theorem test_ctParse_capacity :
    status (after .ctParse { loaded (sig ++ iendFrame ++ iendFrame) with
      cfg := { Params.default with maxChunks := 1 } }) = (10, 2, 0) ∧
    status (after .ctParse { loaded (sig ++ iendFrame ++ iendFrame) with
      cfg := { Params.default with storeCap := 23 } }) = (10, 3, 0) := by decide +kernel

/-- 43_container.md R184: the chunk goes to the end and leaves `W`. -/
theorem test_ctAppend : (after .ctAppend { holding twoChunk with cs := [oneChunk] }).cs = [oneChunk, twoChunk] ∧
    statusView (after .ctAppend { holding twoChunk with cs := [oneChunk] }) = 0 := by decide

/-- 43_container.md R186: the first match; V-CT-21. -/
theorem test_ctFind : (after (.ctFind testTag) (storing [iendChunk, oneChunk, twoChunk])).w = some oneChunk ∧
    (after (.ctFind testTag) (storing [iendChunk, oneChunk, twoChunk])).idx = 1 ∧
    (after (.ctFind iend) State.reset).idx = 0 := by decide

/-- V-CT-23: the first match only. -/
theorem test_ctRemove : (after (.ctRemove testTag) (storing [oneChunk, twoChunk])).cs = [twoChunk] ∧
    (after (.ctRemove testTag) (storing [oneChunk, twoChunk])).w = some oneChunk := by decide

/-- V-CT-22. -/
theorem test_ctRemove_absent : status (after (.ctRemove iend) State.reset) = (7, 0x49454E44, 0) := by decide

/-- V-CT-20; 43_container.md R189's example. -/
theorem test_ctSer : (after .ctSer State.reset).obuf = sig ∧
    (after .ctSer (storing [iendChunk])).obuf = sig ++ iendFrame := by decide +kernel

/-- V-CT-25: 8 + 20 bytes do not fit 20. -/
theorem test_ctSer_capacity : status (after .ctSer { storing [eightChunk] with cfg := small }) = (10, 1, 0) := by decide

/-- V-CH-22, through a step: an illegal word fails and changes nothing else. -/
theorem test_step_illegal : (nextState? (step (State.reset.withFetchWord 40 0xFFFFFFFFFF))).map status =
    some (8, 0xFF, 0xFFFFFFFF) := by decide

/-- 95_test_vectors.md V-CRC-20, through a step from reset. -/
theorem test_step_runs : (nextState? (step (State.reset.withFetchWord 40 0x1100000052))).map State.crcacc =
    some 0xA89820AA := by decide +kernel

/-! ### Witnesses: the hypotheses of each statement, met -/

theorem witness_EncodeDecodeRoundTrip : decode 0x4252755374 = .ok (.ctFind rust) := by decide

theorem witness_DecodeIsTheOpcodeMap : wellFormedWord 0x11000000FF = true ∧ wellFormedWord 0x1100000100 = false ∧
    wellFormedWord 0x20FFFFFFFF = true := by decide

theorem witness_StepRunsTheDecodedCommand :
    { State.reset with pending := [.cmd 0x1100000052] }.pending = [.cmd 0x1100000052] ∧
    decode 0x1100000052 = .ok (.crcByte 0x52) := by decide

theorem witness_IllegalWordFailsAlone : wellFormedWord 0x1100000100 = false ∧ wellFormedWord 0x45FFFFFFFF = false := by
  decide

/-- Each host action; the load clauses meet at 20 and 21 bytes of a `BUF_CAP` of 20. -/
theorem witness_HostActionsFollowTheTable :
    ({ State.reset with pending := [.reset] }.pending = [.reset]) ∧
    ((List.replicate 20 0 : List Byte).length ≤ small.bufCap ∧
      small.bufCap < (List.replicate 21 0 : List Byte).length) ∧
    (decode 0x4000000000 = .ok .ctParse ∧ wellFormedWord 0x4000000001 = false) ∧
    ({ State.reset with pending := [.read 6] }.pending = [.read 6] ∧
      { State.reset with pending := [.read 14] }.pending = [.read 14]) ∧
    ({ State.reset with pending := [.readOut] }.pending = [.readOut]) := by decide

/-- An idle state; both unspecified reads; loads on either side of a `BUF_CAP` of 20. -/
theorem witness_OnlyAnOverlongLoadIsRefused : State.reset.pending = [] ∧
    ({ State.reset with pending := [.read 6] }.pending = [.read 6] ∧ State.reset.tv = false) ∧
    { State.reset with pending := [.read 7] }.pending = [.read 7] ∧
    (∃ t, step { State.reset with cfg := small, pending := [.load (List.replicate 20 0)] } = .next t) ∧
    small.bufCap < (List.replicate 21 0 : List Byte).length :=
  ⟨rfl, ⟨rfl, rfl⟩, rfl, ⟨_, rfl⟩, by decide⟩

/-- 10_state.md R44: reads of `T` and `TFLAGS` right after reset answer, and change no state of the PCE. -/
theorem test_hostRead_unset : (hostRead 6 State.reset = .next { State.reset with
      observed := [.register 6 ((freeTagRead 0).setWidth 40)], freeReads := 1 }) ∧
    hostRead 7 State.reset = .next { State.reset with
      observed := [.register 7 ((freeFlagsRead 0).setWidth 40)], freeReads := 1 } := ⟨rfl, rfl⟩

/-- V-TAG-9: once `T` is written its reads are fixed and use no free value. -/
theorem test_hostRead_tag : registerValue 6 (after (.tagLoad rust) State.reset) = 0x52755374 ∧
    registerValue 7 (after (.tagLoad rust) State.reset) = 0x3D ∧
    readIsFree 6 (after (.tagLoad rust) State.reset) = false := by decide

theorem witness_RegisterNumbersRead : { State.reset with tv := true }.tv = true ∧ State.reset.tv = false ∧ 13 < 14 ∧
    registerValue 13 (storing [iendChunk]) = 1 ∧ registerValue 14 (storing [iendChunk]) = 0 := by decide

theorem witness_ResetActionGivesResetValues :
    { holding iendChunk with pending := [.reset, .readOut] }.pending = [.reset, .readOut] := by decide

theorem witness_OneChangedByteChangesCrc : 0 < [(0x54 : Byte), 0x68].length ∧
    [(0x54 : Byte), 0x68][0]? ≠ some 0x74 ∧ 1 < [(0x54 : Byte), 0x68].length ∧
    [(0x54 : Byte), 0x68][1]? ≠ some 0x69 := by decide

/-- Two runs of bytes, cut by a load and a failing command, then none. -/
theorem witness_CrcUnitComputesCrc32 :
    (∀ a ∈ [issue (.crcByte 0x52), .load [0x75, 0x53], .cmd 0x0500000000, issue .crcBuf, .readOut],
      restartsCrc a = false) ∧
    (nextState? (runActions (issue .crcInit ::
      ([issue (.crcByte 0x52), .load [0x75, 0x53], .cmd 0x0500000000, issue .crcBuf, .readOut] ++
        [issue .crcFinal])) State.reset)).isSome = true ∧
    (nextState? (runActions [issue .crcInit, issue .crcFinal] State.reset)).isSome = true := by decide +kernel

theorem witness_TagCommandsFollowTheirRules : (loaded []).ibuf.length ≠ 4 ∧ (loaded (0x78 :: tagBytes rust)).ibuf.length ≠ 4 ∧
    (loaded (tagBytes rust)).ibuf = [0x52, 0x75, 0x53, 0x74] ∧
    (tagAlpha { loaded (tagBytes rust) with t := rust }.t = true ∧
      { loaded (tagBytes rust) with t := rust }.ibuf = tagBytes rust) := by decide

theorem witness_ChBuildFollowsItsRule : State.reset.tv = false ∧ { State.reset with tv := true }.tv = true := by decide

theorem witness_ChLenFollowsItsRule : State.reset.w = none ∧ (holding iendChunk).w = some iendChunk := by decide

theorem witness_ChCrcFollowsItsRule : State.reset.w = none ∧ (holding oneChunk).w = some oneChunk := by decide

/-- The two capacity clauses meet at frames of 20 and 21 bytes. -/
theorem witness_ChSerFollowsItsRule : State.reset.w = none ∧
    ((holding nineChunk).w = some nineChunk ∧ small.bufCap < 12 + nineChunk.payload.length) ∧
    ((holding eightChunk).w = some eightChunk ∧ 12 + eightChunk.payload.length ≤ small.bufCap) := by decide

/-- An input for each branch; the hypotheses only name parts of the input. -/
theorem witness_ChParseFollowsItsRule : (iendFrame.take 11).length < 12 ∧
    (12 ≤ (iendFrame ++ [0]).length ∧ (iendFrame ++ [0]).length ≠ (unbe32 (memRead iendFrame 0 4)).toNat + 12) ∧
    tagAlpha (tagOfBytes (memRead badTagFrame 4 4)) = false ∧
    crc32 (memRead badSumFrame 4 4) ≠ unbe32 (memRead badSumFrame 8 4) ∧
    crc32 (memRead iendFrame 4 4) = unbe32 (memRead iendFrame 8 4) := by decide +kernel

theorem witness_ChDataFollowsItsRule : State.reset.w = none ∧ (holding twoChunk).w = some twoChunk := by decide

theorem witness_ChTagFollowsItsRule : State.reset.w = none ∧ (holding rawChunk).w = some rawChunk := by decide

/-- An empty payload and one of 3 bytes, a parsed frame, and a tag that is not alphabetic. -/
theorem witness_ChunkRoundTrip : (iendChunk.payload.length < 4294967296 ∧ tagAlpha iendChunk.tag = true) ∧
    (oneChunk.payload.length < 4294967296 ∧ tagAlpha oneChunk.tag = true) ∧
    chunkParse iendFrame = .ok ⟨iend, [], some 0xAE426082⟩ ∧
    (rawChunk.payload.length < 4294967296 ∧ tagAlpha rawChunk.tag = false) := by decide +kernel

/-- The first and last byte of each field; the length field one off and at its largest. -/
theorem witness_ChangedFrameIsCaught : (oneChunk.payload.length < 4294967296 ∧ tagAlpha oneChunk.tag = true) ∧
    (2 < oneChunk.payload.length ∧ oneChunk.payload[2]? ≠ some 0x66 ∧ oneChunk.payload[0]? ≠ some 0x4F) ∧
    ((4 : Word) ≠ BitVec.ofNat 32 oneChunk.payload.length ∧
      (0xFFFFFFFF : Word) ≠ BitVec.ofNat 32 oneChunk.payload.length) ∧
    (alpha 0x31 = false ∧ alpha 0x54 = true ∧ (tagBytes oneChunk.tag)[0]? ≠ some 0x54 ∧
      (tagBytes oneChunk.tag)[3]? ≠ some 0x54) ∧
    (0 : Word) ≠ chunkChecksum oneChunk := by decide +kernel

theorem witness_TrailingBytesNeverRaised : (nextState? (exec .chParse (loaded (iendFrame ++ [0])))).map State.err =
    some 3 := by decide +kernel

/-- An input for each case of the command, and for each branch of a turn of the loop. -/
theorem witness_CtParseFollowsItsRule : (sig.take 7).length < 8 ∧ (0x88 :: sig.drop 1).take 8 ≠ sig ∧
    parseFrames 1 [] 8 = .ok [] ∧ parseFrames 1 [0] 8 = .error (8, .truncatedInput 1) ∧
    parseFrames 12 [0, 0, 0, 1, 0x49, 0x45, 0x4E, 0x44, 0, 0, 0, 0] 8 = .error (8, .sizeMismatch 1 12) ∧
    parseFrames 12 badTagFrame 8 = .error (8, .formatError .notAlphabetic) ∧
    parseFrames 24 (iendFrame ++ badSumFrame) 8 = .error (20, .checksumMismatch 0xAE426082 0xAE426083) ∧
    parseFrames 12 iendFrame 8 = .ok [⟨iend, [], some 0xAE426082⟩] := by decide +kernel

theorem witness_SignatureAloneParsesEmpty : (loaded sig).ibuf = State.reset.cfg.sig.toList := by decide

/-- Each clause at its limit: 2 chunks and a footprint of 24 are what `small` holds. -/
theorem witness_CtAppendFollowsItsRule : State.reset.w = none ∧
    ((holding iendChunk).w = some iendChunk ∧ small.maxChunks < [iendChunk, iendChunk].length + 1) ∧
    ((holding oneChunk).w = some oneChunk ∧ ¬ small.maxChunks < [iendChunk].length + 1 ∧
      small.storeCap < storeFootprint [iendChunk] + (12 + oneChunk.payload.length)) ∧
    (¬ small.maxChunks < [iendChunk].length + 1 ∧
      ¬ small.storeCap < storeFootprint [iendChunk] + (12 + iendChunk.payload.length)) := by decide

/-- Two matches: the nearer to the front is the first. -/
theorem witness_FirstMatchIsLeast : firstMatch [iendChunk, oneChunk, twoChunk] testTag = some 1 ∧
    firstMatch [oneChunk, twoChunk] iend = none ∧ firstMatch [] iend = none := by decide

theorem witness_CtFindFollowsItsRule :
    (firstMatch [iendChunk, oneChunk] testTag = some 1 ∧ [iendChunk, oneChunk][1]? = some oneChunk) ∧
    (∀ c ∈ [oneChunk, twoChunk], c.tag ≠ iend) := by decide

theorem witness_CtRemoveFollowsItsRule :
    (firstMatch [oneChunk, twoChunk] testTag = some 0 ∧ [oneChunk, twoChunk][0]? = some oneChunk) ∧
    (∀ c ∈ [oneChunk, twoChunk], c.tag ≠ iend) := by decide

/-- One chunk of 12 bytes fills a `BUF_CAP` of 20 exactly; one of 15 does not fit. -/
theorem witness_CtSerFollowsItsRule : small.bufCap < 8 + storeFootprint [oneChunk] ∧
    8 + storeFootprint [iendChunk] ≤ small.bufCap := by decide

theorem witness_ContainerRoundTrip : (loaded (sig ++ iendFrame)).ibuf.length ≤ State.reset.cfg.bufCap ∧
    (nextState? (exec .ctParse (loaded (sig ++ iendFrame)))).map State.err = some 0 := by decide +kernel

/-- A chunk with an alphabetic tag and one without, each meeting every hypothesis. -/
theorem witness_AppendSerializeReparse :
    ((holding oneChunk).w = some oneChunk ∧ (∀ d ∈ [iendChunk], tagAlpha d.tag = true) ∧
      Params.default.bufCap ≤ 4294967295 ∧ [iendChunk].length + 1 ≤ Params.default.maxChunks ∧
      storeFootprint [iendChunk] + chunkFootprint oneChunk ≤ Params.default.storeCap ∧
      8 + storeFootprint [iendChunk] + chunkFootprint oneChunk ≤ Params.default.bufCap) ∧
    (tagAlpha oneChunk.tag = true ∧ tagAlpha rawChunk.tag = false ∧
      8 + storeFootprint [iendChunk] + chunkFootprint rawChunk ≤ Params.default.bufCap) := by decide

/-- The middle chunk of three; and in 20 bytes of output, where the old store does not fit and what is left just does. -/
theorem witness_RemovalKeepsOrder : (firstMatch [iendChunk, oneChunk, twoChunk] testTag = some 1 ∧
    (nextState? (exec (.ctRemove testTag) (storing [iendChunk, oneChunk, twoChunk]))).isSome = true ∧
    8 + storeFootprint (after (.ctRemove testTag) (storing [iendChunk, oneChunk, twoChunk])).cs
      ≤ State.reset.cfg.bufCap) ∧
    (firstMatch [iendChunk, oneChunk] testTag = some 1 ∧
    (nextState? (exec (.ctRemove testTag) { storing [iendChunk, oneChunk] with cfg := small })).isSome = true ∧
    small.bufCap < 8 + storeFootprint [iendChunk, oneChunk] ∧
    8 + storeFootprint (after (.ctRemove testTag) { storing [iendChunk, oneChunk] with cfg := small }).cs
      = small.bufCap) := by decide

theorem witness_AppendMovesTheChunk : (nextState? (exec .ctAppend (holding iendChunk))).map State.err = some 0 ∧
    Instr.ctAppend ∈ [Instr.chSer, .chLen, .chCrc, .chData, .chTag, .ctAppend] := by decide

/-- A parser, CT.REMOVE and another command, each failing. -/
theorem witness_FailureCommit : (nextState? (exec .ctParse State.reset)).map State.err = some 6 ∧
    (nextState? (exec (.ctRemove iend) State.reset)).map State.err = some 7 ∧
    (nextState? (exec .chLen State.reset)).map State.err = some 9 := by decide

theorem witness_SuccessCommit : (nextState? (exec .nop State.reset)).map State.err = some 0 := by decide

theorem witness_ErrorMatrix : ((nextState? (exec .chSer State.reset)).map State.err = some 9 ∧ canRaise .chSer 9 = true) ∧
    opField 0x20FFFFFFFF = 0x20 ∧ opField 0x4200000000 = 0x42 ∧ opField 0x43FFFFFFFF = 0x43 ∧
    (∀ k, Instr.nop ≠ .tagLoad k ∧ Instr.nop ≠ .ctFind k ∧ Instr.nop ≠ .ctRemove k) := by
  refine ⟨by decide, by decide, by decide, by decide, ?_⟩
  simp

theorem witness_CommandsWriteOnlyWhatIsListed : (nextState? (exec .chLen (holding iendChunk))).map State.err = some 0 ∧
    Element.output ∉ writesOnSuccess .chLen ∧ (nextState? (exec .chLen State.reset)).map State.err = some 9 ∧
    Element.res ∉ writesOnFailure .chLen := by decide

/-- Two states that differ in `RES` alone, which CH.LEN does not read. -/
theorem witness_CommandsReadOnlyWhatIsListed :
    { holding iendChunk with res := 7 }.cfg = (holding iendChunk).cfg ∧
    (∀ e ∈ readsOf .chLen, Same e (holding iendChunk) { holding iendChunk with res := 7 }) ∧
    (nextState? (exec .chLen (holding iendChunk))).isSome = true := by
  refine ⟨rfl, ?_, by decide⟩
  simp [readsOf, Same]

theorem witness_ResetMeetsTheInvariant : Params.default.wf = true ∧ small.wf = true := by decide

/-- The invariant in a state with everything filled, and a step from it. -/
theorem witness_StepKeepsTheInvariant :
    { holding (chunkCached oneChunk) with cs := [iendChunk], ibuf := sig, pending := [.cmd 0x4100000000] }.Inv ∧
    (nextState? (step { holding (chunkCached oneChunk) with
      cs := [iendChunk], ibuf := sig, pending := [.cmd 0x4100000000] })).isSome = true := by decide +kernel

/-- A store filled to its limits. -/
theorem witness_StoreCapacityIsKept : StoreFits { storing [iendChunk, iendChunk] with cfg := small } ∧
    (nextState? (exec .ctSer { storing [iendChunk, iendChunk] with cfg := small })).isSome = true := by decide

theorem witness_CachesStayTrue : (∀ c ∈ (holding (chunkCached oneChunk)).w, CacheTrue c) ∧
    (∀ c ∈ (storing [iendChunk]).cs, CacheTrue c) := by decide +kernel

/-- Every hypothesis at its bound: the message, the store and the output fill 20, 24 and 32 bytes. -/
theorem witness_EncodeMacroExtendsTheFile :
    { small with bufCap := 32 }.wf = true ∧
    containerParse { small with bufCap := 32 } (sig ++ iendFrame) = .ok [⟨iend, [], some 0xAE426082⟩] ∧
    tagAlpha rust = true ∧ ([] : List Byte).length ≤ 32 ∧ [iendChunk].length + 1 ≤ small.maxChunks ∧
    storeFootprint [iendChunk] + (12 + ([] : List Byte).length) ≤ small.storeCap ∧
    (sig ++ iendFrame).length + (12 + ([] : List Byte).length) ≤ 32 := by decide +kernel

theorem witness_MacroStopsAtTheFirstError : (isCommand (issue .chLen) = true ∧
      (nextState? (hostAct (issue .chLen) State.reset)).map State.err = some 9) ∧
    (isCommand (.load []) = false ∧ (nextState? (hostAct (.load []) State.reset)).isSome = true) ∧
    (nextState? (hostAct (issue .nop) State.reset)).map State.err = some 0 := by decide

end Sys2Proof.Tests
end

section
/-! PROOFS. Reset gives every element its reset value (10_state.md R45), and every command keeps the capacity invariant
of the store (R36). Four commands write the store: each has its own lemma, and the others are one lemma together. -/

namespace Sys2Proof.Machine

variable {s t u : State}

/-- A step takes the host's oldest action (00_scope.md R7). -/
theorem step_of_pending {a : HostAction} {rest : List HostAction} (h : s.pending = a :: rest) :
    step s = hostAct a (s.setPending rest) := by
  simp [step, h]

/-- Settles O11: the step answers the state of `hostReset`, whose fields are those of R45's table. -/
theorem resetActionGivesResetValues : Obligations.ResetActionGivesResetValues := by
  unfold Obligations.ResetActionGivesResetValues
  intro s rest hp
  refine ⟨_, step_of_pending hp, ?_⟩
  simp [State.resetWith, statusView]

/-- The parameters and the store are the same, hidden caches included. -/
abbrev SameStore (s t : State) : Prop :=
  t.cfg = s.cfg ∧ t.cs = s.cs

theorem SameStore.storeFits (h : SameStore s t) (hf : StoreFits s) : StoreFits t := by
  obtain ⟨hcfg, hcs⟩ := h
  rwa [StoreFits, hcfg, hcs]

theorem raise_sameStore {e : Err} (h : raise e u = .next t) (hu : SameStore s u) : SameStore s t := by
  rw [raise_next h]; exact hu

theorem complete_sameStore (h : complete u = .next t) (hu : SameStore s u) : SameStore s t := by
  rw [complete_next h]; exact hu

/-- A command that needs `W` keeps the store when its body does, since the missing operand is a bare error. -/
theorem withChunk_sameStore {body : Chunk → Result} (h : withChunk s body = .next t)
    (hb : ∀ c, body c = .next t → SameStore s t) : SameStore s t := by
  rcases withChunk_cases s body with ⟨c, -, h'⟩ | ⟨-, h'⟩ <;> rw [h'] at h
  · exact hb c h
  · exact raise_sameStore h ⟨rfl, rfl⟩

/-- A command whose row of R43 does not list the store leaves it alone, however it ends. -/
theorem exec_sameStore {i : Instr} (hi : .storeCaches ∉ writesOnSuccess i) (h : exec i s = .next t) :
    SameStore s t := by
  cases i with
  | nop | crcInit | crcByte _ | crcBuf | crcFinal | tagLoad _ => exact complete_sameStore h ⟨rfl, rfl⟩
  | tagParse =>
    simp only [exec, execTagParse] at h
    split at h
    · exact raise_sameStore h ⟨rfl, rfl⟩
    · split at h
      · exact complete_sameStore h ⟨rfl, rfl⟩
      · exact raise_sameStore h ⟨rfl, rfl⟩
  | chBuild =>
    rcases withTag_cases s _ with ⟨-, h'⟩ | ⟨-, h'⟩ <;> rw [exec, execChBuild, h'] at h
    · exact complete_sameStore h ⟨rfl, rfl⟩
    · exact raise_sameStore h ⟨rfl, rfl⟩
  | chLen | chCrc | chData | chTag =>
    exact withChunk_sameStore h fun _ hb => complete_sameStore hb ⟨rfl, rfl⟩
  | chSer =>
    refine withChunk_sameStore h fun c hb => ?_
    split at hb
    · exact raise_sameStore hb ⟨rfl, rfl⟩
    · exact complete_sameStore hb ⟨rfl, rfl⟩
  | chParse =>
    simp only [exec, execChParse] at h
    split at h
    · exact raise_sameStore h ⟨rfl, rfl⟩
    · exact complete_sameStore h ⟨rfl, rfl⟩
  | ctFind k =>
    simp only [exec, execCtFind] at h
    split at h <;> exact complete_sameStore h ⟨rfl, rfl⟩
  | ctParse | ctAppend | ctRemove _ | ctSer => simp [writesOnSuccess] at hi

/-- A chunk that the frame test gives has the footprint of its frame (10_state.md R32, 42_chunk.md R153). -/
theorem frameCheck_ok_footprint {f : List Byte} {c : Chunk} (hlen : f.length = (unbe32 (memRead f 0 4)).toNat + 12)
    (h : frameCheck f = .ok c) : chunkFootprint c = f.length := by
  obtain ⟨-, -, hpay, -, -⟩ := frameCheck_ok h
  rw [chunkFootprint, hpay, memRead_length (by omega)]
  omega

/-- The chunks of the frame loop fit in the bytes it took them from, since each takes its own frame (43_container.md
R181). -/
theorem parseFrames_ok_footprint {turns : Nat} {rest : List Byte} {c : Nat} {cs : List Chunk}
    (h : parseFrames turns rest c = .ok cs) : storeFootprint cs ≤ rest.length := by
  induction turns generalizing rest c cs with
  | zero => cases h; simp
  | succ turns ih =>
    rcases parseFrames_succ turns rest c with
      ⟨-, h'⟩ | ⟨-, -, h'⟩ | ⟨-, -, h'⟩ | ⟨size, hsize, hle, ⟨_, -, h'⟩ | ⟨x, hx, ⟨_, -, h'⟩ | ⟨xs, hxs, h'⟩⟩⟩ <;>
      rw [h'] at h <;> cases h
    · simp
    · have htake : (rest.take size).length = size := List.length_take_of_le hle
      have hfoot : chunkFootprint x = (rest.take size).length := by
        refine frameCheck_ok_footprint ?_ hx
        rw [memRead_take (by omega), htake, hsize]
      have htail : storeFootprint xs ≤ rest.length - size := by simpa using ih hxs
      rw [storeFootprint_cons]
      omega

/-- What the container parser gives is within the capacities of R36: the chunks are counted, and the bytes after the
signature bound their footprints (43_container.md R181). -/
theorem containerParse_ok_fits {p : Params} {l : List Byte} {cs : List Chunk} (h : containerParse p l = .ok cs) :
    cs.length ≤ p.maxChunks ∧ storeFootprint cs ≤ p.storeCap := by
  rcases containerParse_cases p l with
    ⟨-, h'⟩ | ⟨-, -, ⟨_, -, h'⟩ | ⟨ds, hds, ⟨-, h'⟩ | ⟨-, -, h'⟩ | ⟨hn, hcap, h'⟩⟩⟩ <;>
    rw [h'] at h <;> cases h
  have hfoot : storeFootprint cs ≤ l.length - 8 := by simpa using parseFrames_ok_footprint hds
  exact ⟨hn, hfoot.trans hcap⟩

/-- CT.PARSE replaces the store by what the parser gives, or keeps it (43_container.md R181). -/
theorem execCtParse_storeFits (hf : StoreFits s) (h : execCtParse s = .next t) : StoreFits t := by
  unfold execCtParse at h
  split at h
  · rw [raise_next h]; exact hf
  · rename_i cs hcs
    rw [complete_next h]; exact containerParse_ok_fits hcs

/-- CT.APPEND tests both capacities before it appends (43_container.md R184). -/
theorem execCtAppend_storeFits (hf : StoreFits s) (h : execCtAppend s = .next t) : StoreFits t := by
  rcases withChunk_cases s _ with ⟨c, -, h'⟩ | ⟨-, h'⟩ <;> rw [execCtAppend, h'] at h
  · split at h
    · rw [raise_next h]; exact hf
    · split at h
      · rw [raise_next h]; exact hf
      · rename_i hn hcap
        rw [complete_next h]
        exact ⟨by simpa using hn, by simpa using hcap⟩
  · rw [raise_next h]; exact hf

/-- CT.REMOVE takes one chunk out, so count and sum shrink (43_container.md R188). -/
theorem execCtRemove_storeFits {k : Tag} (hf : StoreFits s) (h : execCtRemove k s = .next t) : StoreFits t := by
  unfold execCtRemove at h
  split at h
  · rename_i i hi
    obtain ⟨hn, hcap⟩ := hf
    have hfoot := storeFootprint_remove (List.getElem?_eq_getElem (firstMatch_lt hi))
    have hlen : (s.cs.take i ++ s.cs.drop (i + 1)).length ≤ s.cs.length := by
      rw [List.length_append, List.length_take, List.length_drop]; omega
    rw [complete_next h]
    exact ⟨hlen.trans hn, (Nat.le.intro hfoot).trans hcap⟩
  · rw [raise_next h]; exact hf

/-- CT.SER fills caches, which count in no footprint (43_container.md R189). -/
theorem execCtSer_storeFits (hf : StoreFits s) (h : execCtSer s = .next t) : StoreFits t := by
  unfold execCtSer at h
  split at h
  · rw [raise_next h]; exact hf
  · rw [complete_next h]; simpa [StoreFits] using hf

/-- Settles O53: the four commands that write the store each keep it within its limits, and the others leave it alone. -/
theorem storeCapacityIsKept : Obligations.StoreCapacityIsKept := by
  unfold Obligations.StoreCapacityIsKept
  intro i s t hf h
  cases i with
  | ctParse => exact execCtParse_storeFits hf h
  | ctAppend => exact execCtAppend_storeFits hf h
  | ctRemove _ => exact execCtRemove_storeFits hf h
  | ctSer => exact execCtSer_storeFits hf h
  | _ => exact (exec_sameStore (by simp [writesOnSuccess]) h).storeFits hf

end Sys2Proof.Machine
end

section
/-! PROOFS. The CRC unit (40_crc.md). The accumulator after any run of host actions is the feed of the bytes that the run
gave it (R120); the byte step has a bit-serial form (R112) and a table form (R114) and loses nothing of its byte (R115);
the four commands follow their rules (R116 to R119). -/

namespace Sys2Proof.Machine

variable {s t u : State}

/-! ### A command word that decodes, and one that does not -/

theorem hostCmd_of_ok {cw : CommandWord} {i : Instr} (hd : decode cw = .ok i) (s : State) : hostCmd cw s = exec i s := by
  rw [hostCmd, hd]

theorem hostCmd_of_error {cw : CommandWord} {e : Illegal} (hd : decode cw = .error e) (s : State) :
    hostCmd cw s = raise (.illegalCommand cw) s := by
  rw [hostCmd, hd]

/-! ### The accumulator along a run of host actions -/

/-- The outcome is a next state, and its `CRCACC` is `v`. -/
abbrev AccAfter (r : Result) (v : Word) : Prop :=
  (nextState? r).map State.crcacc = some v

theorem AccAfter.crcacc_eq {r : Result} {v : Word} (hv : AccAfter r v) (h : r = .next t) : t.crcacc = v := by
  subst h; exact Option.some.inj hv

/-- A command that needs `W` keeps `CRCACC` when its body does, since the missing operand is a bare error. -/
theorem withChunk_accAfter {body : Chunk → Result} (hb : ∀ c, AccAfter (body c) s.crcacc) :
    AccAfter (withChunk s body) s.crcacc := by
  rcases withChunk_cases s body with ⟨c, -, h⟩ | ⟨-, h⟩ <;> rw [h]
  · exact hb c
  · rfl

/-- A command whose row of 10_state.md R43 does not list `CRCACC` leaves it alone, however it ends. -/
theorem exec_accAfter {i : Instr} (hi : .crcacc ∉ writesOnSuccess i) (s : State) : AccAfter (exec i s) s.crcacc := by
  cases i with
  | nop | crcFinal | tagLoad _ => rfl
  | crcInit | crcByte _ | crcBuf => simp [writesOnSuccess] at hi
  | tagParse =>
    rw [exec, execTagParse]
    split
    · rfl
    · split <;> rfl
  | chBuild =>
    rw [exec, execChBuild]
    rcases withTag_cases s _ with ⟨-, h⟩ | ⟨-, h⟩ <;> rw [h] <;> rfl
  | chLen | chCrc | chData | chTag => exact withChunk_accAfter fun _ => rfl
  | chSer => exact withChunk_accAfter fun _ => by split <;> rfl
  | chParse => rw [exec, execChParse]; split <;> rfl
  | ctParse => rw [exec, execCtParse]; split <;> rfl
  | ctAppend =>
    refine withChunk_accAfter fun _ => ?_
    split
    · rfl
    · split <;> rfl
  | ctFind k => rw [exec, execCtFind]; split <;> rfl
  | ctRemove k => rw [exec, execCtRemove]; split <;> rfl
  | ctSer => rw [exec, execCtSer]; split <;> rfl

/-- A command other than CRC.INIT feeds the accumulator exactly the bytes that R117 and R118 say. -/
theorem exec_crcacc {cw : CommandWord} {i : Instr} (hd : decode cw = .ok i) (hi : i ≠ .crcInit)
    (h : exec i s = .next t) : t.crcacc = crcFeed s.crcacc (feeds (.cmd cw) s) := by
  cases i with
  | crcInit => exact absurd rfl hi
  | crcByte b => rw [complete_next h]; simp [feeds, hd]
  | crcBuf => rw [complete_next h]; simp [feeds, hd]
  | _ => simpa [feeds, hd] using (exec_accAfter (by simp [writesOnSuccess]) s).crcacc_eq h

/-- A host action that does not restart the accumulator moves it on by the bytes that the action feeds. -/
theorem hostAct_crcacc {a : HostAction} (ha : restartsCrc a = false) (h : hostAct a s = .next t) :
    t.crcacc = crcFeed s.crcacc (feeds a s) := by
  cases a with
  | reset => cases ha
  | load bytes => obtain ⟨-, rfl⟩ := hostLoad_next h; rfl
  | read n => rw [hostAct, hostRead_eq] at h; cases h; rfl
  | readOut => cases h; rfl
  | cmd cw =>
    rcases hostCmd_cases cw s with ⟨i, hd, h'⟩ | ⟨e, hd, h'⟩ <;> rw [hostAct, h'] at h
    · refine exec_crcacc hd ?_ h
      rintro rfl
      simp [restartsCrc, hd] at ha
    · rw [raise_next h]; simp [feeds, hd]

/-- A run that answers is its first action answering, then the rest of the run. -/
theorem runActions_cons_next {a : HostAction} {rest : List HostAction} :
    runActions (a :: rest) s = .next u ↔ ∃ t, hostAct a s = .next t ∧ runActions rest t = .next u := by
  rw [runActions]
  cases hostAct a s <;> simp

/-- A run that answers can be cut anywhere. -/
theorem runActions_append_next {l m : List HostAction} :
    runActions (l ++ m) s = .next u ↔ ∃ t, runActions l s = .next t ∧ runActions m t = .next u := by
  induction l generalizing s with
  | nil => simp [runActions]
  | cons a l ih =>
    simp only [List.cons_append, runActions_cons_next, ih]
    constructor
    · rintro ⟨v, hv, t, ht, hm⟩; exact ⟨t, ⟨v, hv, ht⟩, hm⟩
    · rintro ⟨t, ⟨v, hv, ht⟩, hm⟩; exact ⟨v, hv, t, ht, hm⟩

/-- The invariant behind R120: the accumulator after a run without a restart is the feed of the bytes the run gave it. -/
theorem runActions_crcacc {acts : List HostAction} (ha : ∀ a ∈ acts, restartsCrc a = false)
    (h : runActions acts s = .next t) : t.crcacc = crcFeed s.crcacc (fedBytes acts s) := by
  induction acts generalizing s with
  | nil => cases h; rfl
  | cons a acts ih =>
    obtain ⟨v, hv, hrun⟩ := runActions_cons_next.mp h
    rw [List.forall_mem_cons] at ha
    calc t.crcacc = crcFeed v.crcacc (fedBytes acts v) := ih ha.2 hrun
      _ = crcFeed s.crcacc (feeds a s ++ fedBytes acts v) := by rw [hostAct_crcacc ha.1 hv, crcFeed_append]
      _ = crcFeed s.crcacc (fedBytes (a :: acts) s) := by simp only [fedBytes, hv]

/-- Issuing a command whose word decodes back to it runs it (30_encoding.md R90). -/
theorem hostAct_issue {i : Instr} (hd : decode (encode i) = .ok i) (s : State) : hostAct (issue i) s = exec i s :=
  hostCmd_of_ok hd s

/-- Settles O16: CRC.INIT starts the accumulator at all ones, the run between feeds it (`runActions_crcacc`), and
CRC.FINAL puts its complement into `RES`. -/
theorem crcUnitComputesCrc32 : Obligations.CrcUnitComputesCrc32 := by
  unfold Obligations.CrcUnitComputesCrc32
  intro s u acts ha h
  obtain ⟨v, hinit, h⟩ := runActions_cons_next.mp h
  obtain ⟨t, hrun, h⟩ := runActions_append_next.mp h
  obtain ⟨w, hfinal, h⟩ := runActions_cons_next.mp h
  cases h
  rw [hostAct_issue (by decide)] at hinit hfinal
  cases hinit
  rw [complete_next hfinal]
  exact congrArg (· ^^^ crcOnes) (runActions_crcacc ha hrun)

/-! ### The two other forms of the byte step -/

/-- Turning the loop once more at the end is turning it once more at the start. -/
theorem crcShifts_succ (n : Nat) (x : Word) : crcShifts (n + 1) x = crcShift (crcShifts n x) := by
  induction n generalizing x with
  | zero => rfl
  | succ n ih => exact ih (crcShift x)

/-- A byte is used up after eight shifts. -/
theorem byte_ushiftRight_eight (b : Byte) : (b.setWidth 32 : Word) >>> 8 = 0#32 := by
  apply BitVec.eq_of_getLsbD_eq
  intro i hi
  simp

/-- Data xored in beforehand takes part in one turn of the loop as one bit of the shift register's input and its own
shift (40_crc.md R112). -/
theorem crcShift_xor_data (x w : Word) : crcShift (x ^^^ w) = crcSerialBit x (w.getLsbD 0) ^^^ (w >>> 1) := by
  have hs : (x ^^^ w) >>> 1 = (x >>> 1) ^^^ (w >>> 1) := BitVec.ushiftRight_xor_distrib x w 1
  unfold crcShift crcSerialBit
  rw [BitVec.getLsbD_xor, hs]
  split
  · rw [BitVec.xor_assoc, BitVec.xor_comm (w >>> 1), ← BitVec.xor_assoc]
  · rfl

/-- The register after `n` clocks with the bits of `w`: the part of `w` not yet shifted in makes up the difference to the
register that had `w` xored in beforehand. -/
theorem serialBits_xor_rest (r w : Word) (n : Nat) :
    (List.range n).foldl (fun x i => crcSerialBit x (w.getLsbD i)) r ^^^ (w >>> n) = crcShifts n (r ^^^ w) := by
  induction n with
  | zero => simp [crcShifts]
  | succ n ih =>
    rw [crcShifts_succ, ← ih, crcShift_xor_data, List.range_succ, List.foldl_append]
    simp [BitVec.shiftRight_add]

/-- Settles O12: after eight clocks nothing of the byte is left to shift in. -/
theorem bitSerialFormAgrees : Obligations.BitSerialFormAgrees := by
  unfold Obligations.BitSerialFormAgrees
  intro r b
  have h := serialBits_xor_rest r (b.setWidth 32) 8
  rw [byte_ushiftRight_eight, BitVec.xor_zero] at h
  rw [crcStep, ← h, crcStepSerial]
  simp [List.range_succ]

/-- Turns of the loop on a register whose low bits are 0 only shift. -/
theorem crcShifts_of_low_zero {n : Nat} {x : Word} (h : ∀ i < n, x.getLsbD i = false) : crcShifts n x = x >>> n := by
  induction n generalizing x with
  | zero => simp [crcShifts]
  | succ n ih =>
    have hx : crcShift x = x >>> 1 := by rw [crcShift, h 0 (by omega)]; rfl
    rw [crcShifts, hx, ih fun i hi => by simpa [Nat.add_comm] using h (i + 1) (by omega), ← BitVec.shiftRight_add,
      Nat.add_comm]

/-- The printed table is the byte step of register 0, entry by entry (40_crc.md R114). -/
theorem crcTable_eq : crcTable = (List.range 256).map fun i => crcStep 0 (BitVec.ofNat 8 i) := by decide +kernel

theorem crcTable_get {i : Nat} (h : i < 256) : crcTable[i]? = some (crcStep 0 (BitVec.ofNat 8 i)) := by
  simp [crcTable_eq, List.getElem?_range h]

/-- The low byte of a word is its table index (40_crc.md R114). -/
theorem and_255_toNat (x : Word) : (x &&& 0xFF).toNat = (x.setWidth 8).toNat := by
  rw [BitVec.toNat_and, BitVec.toNat_setWidth]
  exact Nat.and_two_pow_sub_one_eq_mod x.toNat 8

theorem crcTable_getD_low (x : Word) : crcTable.getD (x &&& 0xFF).toNat 0 = crcStep 0 (x.setWidth 8) := by
  rw [and_255_toNat, List.getD_eq_getElem?_getD, crcTable_get (x.setWidth 8).isLt, Option.getD_some,
    BitVec.ofNat_toNat, BitVec.setWidth_eq]

/-- The byte step by its index into the table: the high three bytes shift down, the low one is looked up (40_crc.md
R114). -/
theorem crcShifts_eight (x : Word) : crcShifts 8 x = (x >>> 8) ^^^ crcStep 0 (x.setWidth 8) := by
  have hlow : ∀ i < 8, (x ^^^ (x.setWidth 8).setWidth 32).getLsbD i = false := by
    intro i hi
    simp [hi, show i < 32 by omega]
  calc crcShifts 8 x = crcStep (x ^^^ (x.setWidth 8).setWidth 32) (x.setWidth 8) := by simp [crcStep]
    _ = ((x ^^^ (x.setWidth 8).setWidth 32) >>> 8) ^^^ crcStep 0 (x.setWidth 8) := by
      rw [crcStep_split, crcShifts_of_low_zero hlow]
    _ = (x >>> 8) ^^^ crcStep 0 (x.setWidth 8) := by
      rw [BitVec.ushiftRight_xor_distrib, byte_ushiftRight_eight, BitVec.xor_zero]

/-- Settles O13: the byte step is a shift and a look-up, and the printed table is checked entry by entry. -/
theorem tableFormAgrees : Obligations.TableFormAgrees := by
  unfold Obligations.TableFormAgrees
  refine ⟨fun r b => ?_, by simp [crcTable_eq], fun i hi => crcTable_get hi⟩
  calc crcStepTable r b = (r >>> 8) ^^^ crcStep 0 ((r ^^^ b.setWidth 32).setWidth 8) := by
        rw [crcStepTable, crcTable_getD_low]
    _ = ((r ^^^ b.setWidth 32) >>> 8) ^^^ crcStep 0 ((r ^^^ b.setWidth 32).setWidth 8) := by
        rw [BitVec.ushiftRight_xor_distrib, byte_ushiftRight_eight, BitVec.xor_zero]
    _ = crcStep r b := (crcShifts_eight _).symm

/-! ### A changed byte -/

/-- Different bytes take the same register to different ones. -/
theorem crcStep_byte_injective {r : Word} {b b' : Byte} (h : crcStep r b = crcStep r b') : b = b' := by
  have hw : b.setWidth 32 = b'.setWidth 32 := by
    simpa [← BitVec.xor_assoc] using congrArg (r ^^^ ·) (crcShifts_injective h)
  simpa using congrArg (BitVec.setWidth 8) hw

/-- Sequences that differ in one byte alone have different checksums (40_crc.md R115). -/
theorem crc32_middle_injective {l m : List Byte} {b b' : Byte} (h : crc32 (l ++ b :: m) = crc32 (l ++ b' :: m)) :
    b = b' := by
  have hfeed : crcFeed crcOnes (l ++ b :: m) = crcFeed crcOnes (l ++ b' :: m) := by
    simpa [crc32, BitVec.xor_assoc] using congrArg (· ^^^ crcOnes) h
  rw [crcFeed_append, crcFeed_append] at hfeed
  exact crcStep_byte_injective (crcFeed_injective hfeed)

/-- Settles O14: the checksum is injective in each byte, and the two checksums of the example are computed. -/
theorem oneChangedByteChangesCrc : Obligations.OneChangedByteChangesCrc := by
  unfold Obligations.OneChangedByteChangesCrc
  constructor
  · intro l i b hi hne heq
    have hl : l = l.take i ++ l[i] :: l.drop (i + 1) := by simp
    rw [List.set_eq_take_append_cons_drop, if_pos hi] at heq
    have hb : b = l[i] := crc32_middle_injective (heq.trans (congrArg crc32 hl))
    exact hne (by rw [hb, List.getElem?_eq_getElem hi])
  · rintro msg rfl
    decide +kernel

/-! ### The four commands -/

/-- An illegal word leaves its opcode and its operand in the status group (60_exceptions.md R212). -/
theorem raise_illegalCommand (op : Byte) (arg : Word) (s : State) :
    raise (.illegalCommand (op ++ arg)) s = .next { s with err := 8, einfo0 := op.setWidth 32, einfo1 := arg } := by
  have hop := opField_append op arg
  have harg := argField_append op arg
  rw [opField] at hop
  rw [argField] at harg
  rw [raise_eq, errCode, errInfo0, errInfo1, hop, harg]

/-- An opcode that the decoder reads in format N runs its command in format N (30_encoding.md R91). -/
theorem runsN_of_decode {op : Byte} {i : Instr} (hd : ∀ arg : Word, decode (op ++ arg) = formatN i arg) : RunsN op i := by
  intro s arg
  specialize hd arg
  rw [formatN] at hd
  split at hd <;> rename_i h
  · rw [if_pos h, hostCmd_of_ok hd]
  · rw [if_neg h, hostCmd_of_error hd, raise_illegalCommand]

/-- An opcode that the decoder reads in format B runs its command in format B (30_encoding.md R91). -/
theorem runsB_of_decode {op : Byte} {i : Byte → Instr} (hd : ∀ arg : Word, decode (op ++ arg) = formatB i arg) :
    RunsB op i := by
  intro s arg
  specialize hd arg
  rw [formatB] at hd
  split at hd <;> rename_i h
  · rw [if_pos h, hostCmd_of_ok hd]
  · rw [if_neg h, hostCmd_of_error hd, raise_illegalCommand]

/-- Settles O15: the decoder reads the four opcodes in their formats, and each command is one write and the commit. -/
theorem crcCommandsFollowTheirRules : Obligations.CrcCommandsFollowTheirRules := by
  unfold Obligations.CrcCommandsFollowTheirRules
  refine ⟨runsN_of_decode fun arg => ?_, runsB_of_decode fun arg => ?_, runsN_of_decode fun arg => ?_,
    runsN_of_decode fun arg => ?_, fun s => ⟨rfl, fun _ => rfl, rfl, rfl⟩⟩ <;>
  · rw [decode, opField_append, argField_append]
    rfl

end Sys2Proof.Machine
end

section
/-! PROOFS. The tag unit (41_tag.md). The four property flags are one bit each of the tag (R131 to R134, R137), the other
two are built on the alphabetic test (R130, R135, R136); `TFLAGS` shows the six (10_state.md R23); TAG.LOAD and TAG.PARSE
follow their rules (R138 to R140). -/

namespace Sys2Proof.Machine

/-! ### The predicates -/

/-- The alphabetic test is its two ranges (41_tag.md R130). -/
theorem alpha_iff (b : Byte) : alpha b = true ↔ (65 ≤ b.toNat ∧ b.toNat ≤ 90) ∨ (97 ≤ b.toNat ∧ b.toNat ≤ 122) := by
  simp [alpha]

/-- Settles O17: the test is written as the two ranges. -/
theorem alphaIsAsciiLetter : Obligations.AlphaIsAsciiLetter := by
  unfold Obligations.AlphaIsAsciiLetter
  exact alpha_iff

theorem tagCrit_iff (t : Tag) : tagCrit t = true ↔ t.b0.getLsbD 5 = false := by simp [tagCrit]

theorem tagPub_iff (t : Tag) : tagPub t = true ↔ t.b1.getLsbD 5 = false := by simp [tagPub]

theorem tagRsv_iff (t : Tag) : tagRsv t = true ↔ t.b2.getLsbD 5 = false := by simp [tagRsv]

theorem tagAlpha_iff (t : Tag) :
    tagAlpha t = true ↔ alpha t.b0 = true ∧ alpha t.b1 = true ∧ alpha t.b2 = true ∧ alpha t.b3 = true := by
  simp [tagAlpha, and_assoc]

theorem tagValid_iff (t : Tag) : tagValid t = true ↔ tagAlpha t = true ∧ tagRsv t = true := Bool.and_eq_true_iff

/-- Settles O19: each flag is its bit or the bit's complement, and complementing loses nothing. -/
theorem flagsDependOnOneBitEach : Obligations.FlagsDependOnOneBitEach := by
  unfold Obligations.FlagsDependOnOneBitEach
  exact ⟨fun _ _ => ⟨Bool.not_inj_iff, Bool.not_inj_iff, Bool.not_inj_iff, Iff.rfl⟩, by decide⟩

/-! ### The view `TFLAGS`, bit by bit -/

/-- The bits of the view, the lowest first; bits 7:6 are 0 (10_state.md R23). -/
theorem tagFlags_getLsbD (t : Tag) (j : Nat) :
    (tagFlags t).getLsbD j =
      [tagCrit t, tagPub t, tagRsv t, tagSafe t, tagAlpha t, tagValid t].getD j false := by
  simp only [tagFlags, BitVec.getLsbD_append]
  match j with
  | 0 | 1 | 2 | 3 | 4 | 5 => simp
  | j + 6 => simp

/-- Settles O18: each bit of the view is a predicate, and each predicate reads the tag's bytes. -/
theorem tagFlagsShowThePredicates : Obligations.TagFlagsShowThePredicates := by
  unfold Obligations.TagFlagsShowThePredicates
  refine ⟨fun t => ?_, by decide⟩
  simp only [tagFlags_getLsbD]
  exact ⟨tagCrit_iff t, tagPub_iff t, tagRsv_iff t, Iff.rfl, tagAlpha_iff t, tagValid_iff t,
    fun _ hj => List.getD_eq_default _ _ hj⟩

/-! ### The two commands -/

/-- An opcode that the decoder reads in format K runs its command on every operand (30_encoding.md R91, R92). -/
theorem runsK_of_decode {op : Byte} {i : Tag → Instr} (hd : ∀ arg : Word, decode (op ++ arg) = formatK i arg) :
    RunsK op i :=
  fun s arg => hostCmd_of_ok (hd arg) s

/-- TAG.PARSE on a string of another length than 4 (41_tag.md R139, the first test). -/
theorem exec_tagParse_of_length_ne {s : State} (h : s.ibuf.length ≠ 4) :
    exec .tagParse s = raise (.formatError .notFourBytes) s := by
  rw [exec, execTagParse, if_pos h]

/-- TAG.PARSE on the four bytes of a tag (41_tag.md R139, the second test). -/
theorem exec_tagParse_of_tagBytes {s : State} {t : Tag} (h : s.ibuf = tagBytes t) :
    exec .tagParse s =
      if tagAlpha t = true then complete (s.setTag t) else raise (.formatError .notAlphabetic) s := by
  have hlen : s.ibuf.length = 4 := by rw [h, tagBytes_length]
  have htag : tagOfBytes (memRead s.ibuf 0 4) = t := by rw [← hlen, memRead_all, h, tagOfBytes_tagBytes]
  rw [exec, execTagParse, if_neg (not_not_intro hlen), htag]

/-- Settles O20: the decoder reads the two opcodes in their formats, TAG.LOAD is one write and the commit, and TAG.PARSE
is its two tests in order; R140 is the passing case of the second, with `T` itself as the tag read. -/
theorem tagCommandsFollowTheirRules : Obligations.TagCommandsFollowTheirRules := by
  unfold Obligations.TagCommandsFollowTheirRules
  refine ⟨runsK_of_decode fun arg => ?_, runsN_of_decode fun arg => ?_, fun _ _ => rfl, fun s => ⟨?_, ?_, ?_⟩⟩
  · rw [decode, opField_append, argField_append]; rfl
  · rw [decode, opField_append, argField_append]; rfl
  · exact exec_tagParse_of_length_ne
  · intro a b c d h
    rw [exec_tagParse_of_tagBytes (t := ⟨a, b, c, d⟩) h]
    simp only [tagAlpha_iff]
    rfl
  · intro ha h
    rw [exec_tagParse_of_tagBytes h, if_pos ha]
    rfl

end Sys2Proof.Machine
end

section
/-! PROOFS. The chunk unit (42_chunk.md). What the chunk parser answers on a frame decides the round trip (R168) and the
changed frames (R169); the errors a command can end with leave TrailingBytes out (R165); NOP and the chunk commands follow
their rules (R151, R152, R160 to R167). -/

namespace Sys2Proof.Machine

variable {s t : State}

/-! ### The chunk parser on a frame -/

/-- A chunk's frame with any word in its checksum field (30_encoding.md R81). -/
def frameWithSum (c : Chunk) (sum : Word) : List Byte :=
  be32 (reg32 c.payload.length) ++ tagBytes c.tag ++ c.payload ++ be32 sum

theorem ser_eq_frameWithSum (c : Chunk) : ser c = frameWithSum c (chunkChecksum c) := rfl

/-- The parser reads a frame's fields back: FormatError unless the tag is alphabetic, then ChecksumMismatch unless the
checksum field is the chunk's own (42_chunk.md R153, R154). -/
theorem chunkParse_frameWithSum {c : Chunk} (hc : c.payload.length < 4294967296) (sum : Word) :
    chunkParse (frameWithSum c sum) =
      if tagAlpha c.tag = true then
        if chunkChecksum c = sum then .ok (chunkCached c) else .error (.checksumMismatch (chunkChecksum c) sum)
      else .error (.formatError .notAlphabetic) := by
  have hlen : (reg32 c.payload.length).toNat = c.payload.length := toNat_reg32 hc
  obtain ⟨hsize, hl, ht, hp, hs⟩ := fields_of_frame (len := reg32 c.payload.length) (tagBytes_length c.tag) hlen.symm
    (be32_length sum) (f := frameWithSum c sum) rfl
  have hnot : ¬ (frameWithSum c sum).length < 12 := by omega
  rw [chunkParse, if_neg hnot, hl, if_neg (not_not_intro hsize), frameCheck]
  simp only [hl, ht, hp, hs, unbe32_be32, tagOfBytes_tagBytes]
  rfl

/-- The alphabetic test comes before the checksum is looked at (42_chunk.md R153). -/
theorem chunkParse_frameWithSum_of_not_alpha {c : Chunk} (hc : c.payload.length < 4294967296)
    (ha : tagAlpha c.tag = false) (sum : Word) :
    chunkParse (frameWithSum c sum) = .error (.formatError .notAlphabetic) := by
  rw [chunkParse_frameWithSum hc, if_neg (by simp [ha])]

/-- Serializing what the parser gave writes the four fields that it read (42_chunk.md R168). -/
theorem ser_of_chunkParse_ok {l : List Byte} {c : Chunk} (h : chunkParse l = .ok c) : ser c = l := by
  rcases chunkParse_cases l with ⟨-, h'⟩ | ⟨-, -, h'⟩ | ⟨hlen, h'⟩ <;> rw [h'] at h
  · cases h
  · cases h
  · obtain ⟨-, htag, hpay, -, hsum⟩ := frameCheck_ok h
    have hlp : c.payload.length = (unbe32 (memRead l 0 4)).toNat := by rw [hpay, memRead_length (by omega)]
    rw [ser, hlp, reg32_toNat, be32_unbe32 (memRead_length (by omega)), htag,
      tagBytes_tagOfBytes (memRead_length (by omega)), hpay, hsum, be32_unbe32 (memRead_length (by omega)),
      ← frame_fields hlen]

/-- Settles O30: both ways of the round trip, and the parser's alphabetic test on any other tag. -/
theorem chunkRoundTrip : Obligations.ChunkRoundTrip := by
  unfold Obligations.ChunkRoundTrip
  refine ⟨fun c hc ha => ⟨chunkCached c, ?_, rfl⟩, fun l c => ser_of_chunkParse_ok, fun c hc ha => ?_⟩
  · rw [ser_eq_frameWithSum, chunkParse_frameWithSum hc, if_pos ha, if_pos rfl]
  · exact chunkParse_frameWithSum_of_not_alpha hc ha _

/-! ### A frame with a change -/

/-- A tag is alphabetic when each of its bytes is a letter (41_tag.md R135). -/
theorem tagAlpha_iff_forall_mem (k : Tag) : tagAlpha k = true ↔ ∀ b ∈ tagBytes k, alpha b = true := by
  simp [tagAlpha_iff, tagBytes]

/-- The tag with its byte `i` replaced. -/
def tagWithByte (k : Tag) (i : Nat) (b : Byte) : Tag :=
  tagOfBytes ((tagBytes k).set i b)

theorem tagBytes_tagWithByte (k : Tag) (i : Nat) (b : Byte) : tagBytes (tagWithByte k i b) = (tagBytes k).set i b :=
  tagBytes_tagOfBytes (by simp)

/-- A non-letter in any place makes a tag non-alphabetic. -/
theorem tagAlpha_tagWithByte_of_not_alpha (k : Tag) {i : Nat} {b : Byte} (hi : i < 4) (hb : alpha b = false) :
    tagAlpha (tagWithByte k i b) = false := by
  rw [← Bool.not_eq_true, tagAlpha_iff_forall_mem, tagBytes_tagWithByte]
  intro h
  rw [h b (List.mem_set hi b)] at hb
  cases hb

/-- A letter in any place keeps a tag alphabetic. -/
theorem tagAlpha_tagWithByte {k : Tag} (ha : tagAlpha k = true) (i : Nat) {b : Byte} (hb : alpha b = true) :
    tagAlpha (tagWithByte k i b) = true := by
  rw [tagAlpha_iff_forall_mem] at ha ⊢
  rw [tagBytes_tagWithByte]
  intro x hx
  rcases List.mem_or_eq_of_mem_set hx with h | rfl
  · exact ha x h
  · exact hb

/-- Replacing a byte of the tag field makes the frame of the chunk with that tag, the checksum field as it was. -/
theorem ser_set_tag (c : Chunk) {i : Nat} (b : Byte) (hi : i < 4) :
    (ser c).set (4 + i) b = frameWithSum { c with tag := tagWithByte c.tag i b } (chunkChecksum c) := by
  rw [frameWithSum, tagBytes_tagWithByte]
  simp only [ser, List.append_assoc]
  rw [List.set_append_right _ _ (by simp), List.set_append_left _ _ (by simpa using hi)]
  simp

/-- Replacing a byte of the payload field makes the frame of the chunk with that payload, the checksum field as it was. -/
theorem ser_set_payload (c : Chunk) {i : Nat} (b : Byte) (hi : i < c.payload.length) :
    (ser c).set (8 + i) b = frameWithSum { c with payload := c.payload.set i b } (chunkChecksum c) := by
  have hlen : (be32 (reg32 c.payload.length) ++ tagBytes c.tag).length = 8 := rfl
  rw [frameWithSum, ser, List.set_append_left _ _ (by simp only [List.length_append, hlen]; omega),
    List.set_append_right _ _ (by omega), hlen]
  simp

/-- Replacing the checksum field alone. -/
theorem ser_take_append_sum (c : Chunk) (sum : Word) :
    (ser c).take (8 + c.payload.length) ++ be32 sum = frameWithSum c sum := by
  rw [ser, List.take_left' (by simp; omega)]
  rfl

/-- The checksum covers the tag bytes first (20_memory.md R65). -/
theorem chunkCovered_set_tag (c : Chunk) {i : Nat} (b : Byte) (hi : i < 4) :
    chunkCovered { c with tag := tagWithByte c.tag i b } = (chunkCovered c).set i b := by
  simp only [chunkCovered, tagBytes_tagWithByte]
  rw [List.set_append_left _ _ (by simpa using hi)]

/-- The checksum covers the payload after the four tag bytes (20_memory.md R65). -/
theorem chunkCovered_set_payload (c : Chunk) (i : Nat) (b : Byte) :
    chunkCovered { c with payload := c.payload.set i b } = (chunkCovered c).set (4 + i) b := by
  simp only [chunkCovered]
  rw [List.set_append_right _ _ (by simp)]
  simp

/-- A frame whose checksum field is not the chunk's own is a ChecksumMismatch when its tag is alphabetic. -/
theorem chunkParse_frameWithSum_of_ne {d : Chunk} {sum : Word} (hd : d.payload.length < 4294967296)
    (ha : tagAlpha d.tag = true) (hne : chunkChecksum d ≠ sum) :
    chunkParse (frameWithSum d sum) = .error (.checksumMismatch (chunkChecksum d) sum) := by
  rw [chunkParse_frameWithSum hd, if_pos ha, if_neg hne]

/-- The frame of a chunk that differs from `c` in one covered byte is caught by the checksum of `c`, since one changed
byte changes a checksum (40_crc.md R115). -/
theorem chunkParse_one_byte_changed {c d : Chunk} {i : Nat} {b : Byte} (hd : d.payload.length < 4294967296)
    (ha : tagAlpha d.tag = true) (hcov : chunkCovered d = (chunkCovered c).set i b)
    (hi : i < (chunkCovered c).length) (hne : (chunkCovered c)[i]? ≠ some b) :
    ∃ comp, comp ≠ chunkChecksum c ∧
      chunkParse (frameWithSum d (chunkChecksum c)) = .error (.checksumMismatch comp (chunkChecksum c)) := by
  have hsum : chunkChecksum d ≠ chunkChecksum c := by
    rw [chunkChecksum, hcov]
    exact oneChangedByteChangesCrc.1 _ i b hi hne
  exact ⟨_, hsum, chunkParse_frameWithSum_of_ne hd ha hsum⟩

/-- A wrong length field is a SizeMismatch: the input keeps its size of at least 12 bytes (42_chunk.md R169). -/
theorem chunkParse_wrong_length {c : Chunk} (hc : c.payload.length < 4294967296) {len : Word}
    (hlen : len ≠ reg32 c.payload.length) :
    chunkParse (be32 len ++ (ser c).drop 4) = .error (.sizeMismatch len (12 + c.payload.length)) := by
  have hsize : (be32 len ++ (ser c).drop 4).length = 12 + c.payload.length := by
    simp only [List.length_append, be32_length, List.length_drop, ser_length, chunkFootprint]; omega
  have hread : unbe32 (memRead (be32 len ++ (ser c).drop 4) 0 4) = len := by
    rw [memRead_append_left (be32_length len), unbe32_be32]
  have hne : 12 + c.payload.length ≠ len.toNat + 12 := by
    intro h
    exact hlen (by rw [show c.payload.length = len.toNat by omega, reg32_toNat])
  rw [chunkParse, hsize, hread, if_neg (by omega), if_pos hne]

/-- Settles O31: each change makes a frame whose fields are known, so what the parser answers is known; one changed byte
of tag or payload is one changed byte of what the checksum covers. -/
theorem changedFrameIsCaught : Obligations.ChangedFrameIsCaught := by
  unfold Obligations.ChangedFrameIsCaught
  intro c hc ha
  refine ⟨fun i b hi hne => ?payload, fun len => chunkParse_wrong_length hc, fun i b hi hb => ?nonLetter,
    fun i b hi hb hne => ?letter, fun sum hne => ?checksum⟩
  case payload =>
    rw [ser_set_payload c b hi]
    refine chunkParse_one_byte_changed (by simpa using hc) ha (chunkCovered_set_payload c i b) ?_ ?_
    · rw [chunkCovered, List.length_append, tagBytes_length]; omega
    · rw [chunkCovered, List.getElem?_append_right (by simp)]
      simpa using hne
  case nonLetter =>
    rw [ser_set_tag c b hi]
    exact chunkParse_frameWithSum_of_not_alpha (c := { c with tag := tagWithByte c.tag i b }) hc
      (tagAlpha_tagWithByte_of_not_alpha c.tag hi hb) _
  case letter =>
    rw [ser_set_tag c b hi]
    refine chunkParse_one_byte_changed (d := { c with tag := tagWithByte c.tag i b }) hc
      (tagAlpha_tagWithByte ha i hb) (chunkCovered_set_tag c b hi) ?_ ?_
    · rw [chunkCovered, List.length_append, tagBytes_length]; omega
    · rwa [chunkCovered, List.getElem?_append_left hi]
  case checksum =>
    rw [ser_take_append_sum, chunkParse_frameWithSum_of_ne hc ha hne.symm]

/-! ### TrailingBytes -/

/-- A command leaves `ERR` 0 or a code of its row (60_exceptions.md R217, R219). -/
theorem exec_err {i : Instr} (h : exec i s = .next t) : t.err = 0 ∨ canRaise i t.err = true := by
  cases exec_ends i s with
  | done u h' => rw [complete_next (h'.symm.trans h)]; exact .inl rfl
  | failed e hc _ h' => rw [raise_next (h'.symm.trans h)]; exact .inr hc
  | failedAt e c hc _ h' => rw [raise_next (h'.symm.trans h)]; exact .inr hc
  | absent k hi h' => subst hi; rw [raise_next (h'.symm.trans h)]; exact .inr rfl

/-- The row of no command lists TrailingBytes (60_exceptions.md R219). -/
theorem canRaise_trailingBytes (i : Instr) : canRaise i 4 = false := by
  cases i <;> rfl

/-- Settles O32: no row of R219 lists the code, and a parser's error is one of its command's row. -/
theorem trailingBytesNeverRaised : Obligations.TrailingBytesNeverRaised := by
  unfold Obligations.TrailingBytesNeverRaised
  refine ⟨fun i s t h h4 => ?_, fun l h => ?_, fun p l c h => ?_⟩
  · rcases exec_err h with h0 | hrow
    · rw [h4] at h0
      cases h0
    · rw [h4, canRaise_trailingBytes] at hrow
      cases hrow
  · simpa [errCode] using chunkParse_error h
  · have hc := (containerParse_error h).2
    rw [errCode, canRaise_trailingBytes] at hc
    cases hc

/-! ### The commands -/

/-- The commands of format N (30_encoding.md R91, R93). -/
def isFormatN : Instr → Bool
  | .crcByte _ | .tagLoad _ | .ctFind _ | .ctRemove _ => false
  | _ => true

theorem decode_of_isFormatN {i : Instr} (hi : isFormatN i = true) (arg : Word) :
    decode (opcodeOf i ++ arg) = formatN i arg := by
  rw [decode, opField_append, argField_append]
  cases i with
  | crcByte _ | tagLoad _ | ctFind _ | ctRemove _ => cases hi
  | _ => rfl

/-- A command of format N runs under its opcode with operand 0 alone (30_encoding.md R91). -/
theorem runsN_of_isFormatN {i : Instr} (hi : isFormatN i = true) : RunsN (opcodeOf i) i :=
  runsN_of_decode (decode_of_isFormatN hi)

theorem withTag_of_valid (h : s.tv = true) (body : Tag → Result) : withTag s body = body s.t := by
  rw [withTag, if_pos h]

theorem withTag_of_not_valid (h : s.tv = false) (body : Tag → Result) :
    withTag s body = raise (.operandMissing .tagRegister) s := by
  rw [withTag, if_neg (by simp [h])]

theorem withChunk_of_some {c : Chunk} (h : s.w = some c) (body : Chunk → Result) : withChunk s body = body c := by
  rw [withChunk, h]

theorem withChunk_of_none (h : s.w = none) (body : Chunk → Result) :
    withChunk s body = raise (.operandMissing .workingChunk) s := by
  rw [withChunk, h]

/-- Settles O21: NOP is the commit alone. -/
theorem nopClearsTheStatusGroup : Obligations.NopClearsTheStatusGroup := by
  unfold Obligations.NopClearsTheStatusGroup
  exact ⟨runsN_of_isFormatN (i := .nop) rfl, complete_eq⟩

/-- Settles O22: the test of `TV`, and the payload is IBUF read whole. -/
theorem chBuildFollowsItsRule : Obligations.ChBuildFollowsItsRule := by
  unfold Obligations.ChBuildFollowsItsRule
  refine ⟨runsN_of_isFormatN (i := .chBuild) rfl, fun s => ⟨fun h => ?_, fun h => ?_⟩⟩ <;> rw [exec, execChBuild]
  · exact withTag_of_not_valid h _
  · rw [withTag_of_valid h, memRead_all]
    rfl

/-- Settles O23: the test of `W`, one write and the commit. -/
theorem chLenFollowsItsRule : Obligations.ChLenFollowsItsRule := by
  unfold Obligations.ChLenFollowsItsRule
  exact ⟨runsN_of_isFormatN (i := .chLen) rfl, fun s =>
    ⟨fun h => withChunk_of_none h _, fun c h => withChunk_of_some h _⟩⟩

/-- Settles O24: the test of `W`, two writes and the commit. -/
theorem chCrcFollowsItsRule : Obligations.ChCrcFollowsItsRule := by
  unfold Obligations.ChCrcFollowsItsRule
  exact ⟨runsN_of_isFormatN (i := .chCrc) rfl, fun s =>
    ⟨fun h => withChunk_of_none h _, fun c h => withChunk_of_some h _⟩⟩

/-- Settles O25: the test of `W`, then the test of the capacity, then two writes and the commit. -/
theorem chSerFollowsItsRule : Obligations.ChSerFollowsItsRule := by
  unfold Obligations.ChSerFollowsItsRule
  refine ⟨runsN_of_isFormatN (i := .chSer) rfl, fun s =>
    ⟨fun h => withChunk_of_none h _, fun c h hcap => ?_, fun c h hcap => ?_⟩⟩
  · rw [exec, execChSer, withChunk_of_some h, if_pos hcap]
    rfl
  · rw [exec, execChSer, withChunk_of_some h, if_neg (Nat.not_lt.mpr hcap)]
    rfl

/-- Settles O26: the layout is the definition, and the example is computed. -/
theorem serLayout : Obligations.SerLayout := by
  unfold Obligations.SerLayout
  exact ⟨fun c => ⟨rfl, ser_length c⟩, by decide +kernel⟩

/-- Settles O28: the test of `W`, one write and the commit. -/
theorem chDataFollowsItsRule : Obligations.ChDataFollowsItsRule := by
  unfold Obligations.ChDataFollowsItsRule
  exact ⟨runsN_of_isFormatN (i := .chData) rfl, fun s =>
    ⟨fun h => withChunk_of_none h _, fun c h => withChunk_of_some h _⟩⟩

/-- Settles O29: the test of `W`, one write and the commit. -/
theorem chTagFollowsItsRule : Obligations.ChTagFollowsItsRule := by
  unfold Obligations.ChTagFollowsItsRule
  exact ⟨runsN_of_isFormatN (i := .chTag) rfl, fun s =>
    ⟨fun h => withChunk_of_none h _, fun c h => withChunk_of_some h _⟩⟩

/-- CH.PARSE on an input that the parser rejects (42_chunk.md R163). -/
theorem exec_chParse_of_error {e : Err} (h : chunkParse s.ibuf = .error e) :
    exec .chParse s = .next { s with cur := 0, err := errCode e, einfo0 := errInfo0 e, einfo1 := errInfo1 e } := by
  rw [exec, execChParse, memRead_all, h]
  rfl

/-- CH.PARSE on an input that the parser accepts (42_chunk.md R163). -/
theorem exec_chParse_of_ok {c : Chunk} (h : chunkParse s.ibuf = .ok c) :
    exec .chParse s =
      .next { s with w := some c, cur := reg32 s.ibuf.length, err := 0, einfo0 := 0, einfo1 := 0 } := by
  rw [exec, execChParse, memRead_all, h]
  rfl

/-- Settles O27: the answers of the parser, then of the frame test, each with its branch of the rule. -/
theorem chParseFollowsItsRule : Obligations.ChParseFollowsItsRule := by
  unfold Obligations.ChParseFollowsItsRule
  refine ⟨runsN_of_isFormatN (i := .chParse) rfl, ?_⟩
  rintro s _ _ _ _ _ rfl rfl rfl rfl rfl
  rcases chunkParse_cases s.ibuf with ⟨h12, h⟩ | ⟨h12, hsize, h⟩ | ⟨hsize, h⟩
  · rw [if_pos h12, exec_chParse_of_error h]
    rfl
  · rw [if_neg (by omega), if_pos hsize, exec_chParse_of_error h]
    rfl
  · rw [if_neg (by omega), if_neg (not_not_intro hsize)]
    rcases frameCheck_cases s.ibuf with ⟨ha, h'⟩ | ⟨ha, pay, comp, rfl, rfl, ⟨hsum, h'⟩ | ⟨hsum, h'⟩⟩
    · rw [if_pos ha, exec_chParse_of_error (h.trans h')]
      rfl
    · rw [if_neg (by simp [ha]), if_neg (not_not_intro hsum), exec_chParse_of_ok (h.trans h')]
      rfl
    · rw [if_neg (by simp [ha]), if_pos hsum, exec_chParse_of_error (h.trans h')]
      rfl

end Sys2Proof.Machine
end

section
/-! PROOFS. The container unit (43_container.md). The first match is the least one (R185); the commands follow their
rules (R181, R184, R186, R188 to R190, R193); the frame loop gives chunks that serialize to the bytes it took (R191) and
reads serialized chunks back (R192); a removal cuts one frame out of the serialization (R194). -/

namespace Sys2Proof.Machine

variable {s t : State}

/-! ### The first match -/

theorem firstMatch_eq_some_iff {cs : List Chunk} {k : Tag} {i : Nat} :
    firstMatch cs k = some i ↔
      (∃ c, cs[i]? = some c ∧ c.tag = k) ∧ ∀ j c, j < i → cs[j]? = some c → c.tag ≠ k := by
  simp only [firstMatch, List.findIdx?_eq_some_iff_getElem, chunkMatches_iff, List.getElem?_eq_some_iff]
  constructor
  · rintro ⟨hi, hk, hleast⟩
    exact ⟨⟨cs[i], ⟨hi, rfl⟩, hk⟩, fun j c hj ⟨_, hc⟩ => hc ▸ hleast j hj⟩
  · rintro ⟨⟨c, ⟨hi, rfl⟩, hk⟩, hleast⟩
    exact ⟨hi, hk, fun j hj => hleast j _ hj ⟨hj.trans hi, rfl⟩⟩

theorem firstMatch_eq_none_iff {cs : List Chunk} {k : Tag} : firstMatch cs k = none ↔ ∀ c ∈ cs, c.tag ≠ k := by
  simp only [firstMatch, List.findIdx?_eq_none_iff, ← Bool.not_eq_true, chunkMatches_iff, ne_eq]

/-- Settles O36: the search from the front stops at the first chunk whose four tag bytes are the key's. -/
theorem firstMatchIsLeast : Obligations.FirstMatchIsLeast := by
  unfold Obligations.FirstMatchIsLeast
  exact fun cs k => ⟨fun i => firstMatch_eq_some_iff, firstMatch_eq_none_iff⟩

/-! ### The commands -/

/-- CT.PARSE on an input that the parser rejects (43_container.md R181). -/
theorem exec_ctParse_of_error {c : Nat} {e : Err} (h : containerParse s.cfg s.ibuf = .error (c, e)) :
    exec .ctParse s =
      .next { s with cur := reg32 c, err := errCode e, einfo0 := errInfo0 e, einfo1 := errInfo1 e } := by
  rw [exec, execCtParse, h]
  rfl

/-- CT.PARSE on an input that the parser accepts (43_container.md R181). -/
theorem exec_ctParse_of_ok {cs : List Chunk} (h : containerParse s.cfg s.ibuf = .ok cs) :
    exec .ctParse s = .next { s with cs := cs, cur := reg32 s.ibuf.length, err := 0, einfo0 := 0, einfo1 := 0 } := by
  rw [exec, execCtParse, h]
  rfl

/-- CT.APPEND with room for the chunk (43_container.md R184). -/
theorem exec_ctAppend_of_fits {c : Chunk} (hw : s.w = some c) (hn : s.cs.length + 1 ≤ s.cfg.maxChunks)
    (hcap : storeFootprint s.cs + chunkFootprint c ≤ s.cfg.storeCap) :
    exec .ctAppend s = .next { s with cs := s.cs ++ [c], w := none, err := 0, einfo0 := 0, einfo1 := 0 } := by
  rw [exec, execCtAppend, withChunk_of_some hw, if_neg (Nat.not_lt.mpr hn), if_neg (Nat.not_lt.mpr hcap)]
  rfl

/-- CT.REMOVE of the first match (43_container.md R188). -/
theorem exec_ctRemove_of_some {k : Tag} {i : Nat} (h : firstMatch s.cs k = some i) :
    exec (.ctRemove k) s =
      .next { s with w := s.cs[i]?, cs := s.cs.take i ++ s.cs.drop (i + 1), found := true, idx := reg32 i,
                     err := 0, einfo0 := 0, einfo1 := 0 } := by
  rw [exec, execCtRemove, h]
  rfl

/-- CT.SER with room for the output (43_container.md R189). -/
theorem exec_ctSer_of_fits (h : 8 + storeFootprint s.cs ≤ s.cfg.bufCap) :
    exec .ctSer s =
      .next { s with cs := s.cs.map chunkCached, obuf := cser s.cfg s.cs, err := 0, einfo0 := 0, einfo1 := 0 } := by
  rw [exec, execCtSer, if_neg (Nat.not_lt.mpr h)]
  rfl

/-- Settles O35: the test of `W`, then the two capacities in order, then two writes and the commit. -/
theorem ctAppendFollowsItsRule : Obligations.CtAppendFollowsItsRule := by
  unfold Obligations.CtAppendFollowsItsRule
  refine ⟨runsN_of_isFormatN (i := .ctAppend) rfl, fun s => ⟨fun h => withChunk_of_none h _, fun c h => ?_⟩⟩
  split
  · rename_i hn
    rw [exec, execCtAppend, withChunk_of_some h, if_pos hn]
    rfl
  · rename_i hn
    split
    · rename_i hcap
      rw [exec, execCtAppend, withChunk_of_some h, if_neg hn]
      exact if_pos hcap
    · rename_i hcap
      exact exec_ctAppend_of_fits h (Nat.not_lt.mp hn) (Nat.not_lt.mp hcap)

/-- Settles O37: the answer of the search decides, and a match is copied. -/
theorem ctFindFollowsItsRule : Obligations.CtFindFollowsItsRule := by
  unfold Obligations.CtFindFollowsItsRule
  refine ⟨runsK_of_decode fun arg => ?_, fun s k => ⟨fun i c hi hc => ?_, fun habsent => ?_⟩⟩
  · rw [decode, opField_append, argField_append]
    rfl
  · rw [exec, execCtFind, hi, ← hc]
    rfl
  · rw [exec, execCtFind, firstMatch_eq_none_iff.mpr habsent]
    rfl

/-- Settles O38: the answer of the search decides, and a match is moved. -/
theorem ctRemoveFollowsItsRule : Obligations.CtRemoveFollowsItsRule := by
  unfold Obligations.CtRemoveFollowsItsRule
  refine ⟨runsK_of_decode fun arg => ?_, fun s k => ⟨fun i c hi hc => ?_, fun habsent => ?_⟩⟩
  · rw [decode, opField_append, argField_append]
    rfl
  · rw [exec_ctRemove_of_some hi, ← hc]
    rfl
  · rw [exec, execCtRemove, firstMatch_eq_none_iff.mpr habsent]
    rfl

/-- Settles O39: the test of the capacity, then two writes and the commit; the output has the length that was tested. -/
theorem ctSerFollowsItsRule : Obligations.CtSerFollowsItsRule := by
  unfold Obligations.CtSerFollowsItsRule
  refine ⟨runsN_of_isFormatN (i := .ctSer) rfl, fun s =>
    ⟨fun hcap => ?_, fun hcap => ⟨exec_ctSer_of_fits hcap, cser_length s.cfg s.cs⟩⟩⟩
  rw [exec, execCtSer, if_pos hcap]
  rfl

/-! ### The frame loop -/

@[simp] theorem parseFrames_nil (turns c : Nat) : parseFrames turns [] c = .ok [] := by
  cases turns <;> rfl

/-- A turn takes at least 12 bytes, so any bound of at least the bytes that remain gives the same answer
(70_reset_and_hazards.md R251). -/
theorem parseFrames_turns_irrelevant {turns turns' : Nat} {rest : List Byte} (c : Nat) (h : rest.length ≤ turns)
    (h' : rest.length ≤ turns') : parseFrames turns rest c = parseFrames turns' rest c := by
  induction turns generalizing turns' rest c with
  | zero => rw [List.eq_nil_of_length_eq_zero (Nat.le_zero.mp h), parseFrames_nil, parseFrames_nil]
  | succ turns ih =>
    cases turns' with
    | zero => rw [List.eq_nil_of_length_eq_zero (Nat.le_zero.mp h'), parseFrames_nil, parseFrames_nil]
    | succ turns' =>
      have hrec (n : Nat) (c : Nat) :
          parseFrames turns (rest.drop (n + 12)) c = parseFrames turns' (rest.drop (n + 12)) c :=
        ih c (by rw [List.length_drop]; omega) (by rw [List.length_drop]; omega)
      simp only [parseFrames, hrec]

/-- Settles O33: the answers of the container parser, each with its branch of the rule; a turn of the loop leaves enough
of its bound for the turns to come. -/
theorem ctParseFollowsItsRule : Obligations.CtParseFollowsItsRule := by
  unfold Obligations.CtParseFollowsItsRule
  refine ⟨runsN_of_isFormatN (i := .ctParse) rfl, fun s => ?command, ?loop⟩
  case command =>
    rcases containerParse_cases s.cfg s.ibuf with
      ⟨hsig, h⟩ | ⟨h8, hsig, ⟨⟨c, e⟩, hf, h⟩ | ⟨cs, hf, ⟨hn, h⟩ | ⟨hn, hcap, h⟩ | ⟨hn, hcap, h⟩⟩⟩
    · rw [exec_ctParse_of_error h]
      exact (if_pos hsig).symm
    all_goals
      have hsig' : ¬ (s.ibuf.length < 8 ∨ s.ibuf.take 8 ≠ s.cfg.sig.toList) :=
        not_or.mpr ⟨Nat.not_lt.mpr h8, not_not_intro hsig⟩
      rw [if_neg hsig', hf]
    · exact exec_ctParse_of_error h
    · rw [exec_ctParse_of_error h]
      exact (if_pos hn).symm
    · rw [exec_ctParse_of_error h]
      exact ((if_neg (Nat.not_lt.mpr hn)).trans (if_pos hcap)).symm
    · rw [exec_ctParse_of_ok h]
      exact ((if_neg (Nat.not_lt.mpr hn)).trans (if_neg (Nat.not_lt.mpr hcap))).symm
  case loop =>
    rintro turns rest c _ hle rfl
    cases turns with
    | zero => rw [List.eq_nil_of_length_eq_zero (Nat.le_zero.mp hle)]; rfl
    | succ turns =>
      have hrec : parseFrames (turns + 1) (rest.drop (12 + (unbe32 (memRead rest 0 4)).toNat))
            (c + 12 + (unbe32 (memRead rest 0 4)).toNat) =
          parseFrames turns (rest.drop ((unbe32 (memRead rest 0 4)).toNat + 12))
            (c + ((unbe32 (memRead rest 0 4)).toNat + 12)) := by
        rw [Nat.add_assoc, Nat.add_comm 12]
        exact parseFrames_turns_irrelevant _ (by rw [List.length_drop]; omega) (by rw [List.length_drop]; omega)
      rw [hrec, Nat.add_comm 12]
      rcases parseFrames_succ turns rest c with
        ⟨rfl, h⟩ | ⟨hne, hlt, h⟩ | ⟨h12, hlt, h⟩ | ⟨_, rfl, hsize, ⟨e, hf, h⟩ | ⟨x, hf, ⟨e, hr, h⟩ | ⟨xs, hr, h⟩⟩⟩ <;>
        rw [h]
      · rfl
      · rw [if_neg (by simpa using hne), if_pos hlt]
      · rw [if_neg (by omega), if_neg (by omega), if_pos hlt]
      all_goals rw [if_neg (by omega), if_neg (by omega), if_neg (by omega), hf]
      all_goals rw [hr]

/-! ### What was parsed, serialized -/

/-- A frame that passes the frame test is the serialization of its chunk (42_chunk.md R153). -/
theorem ser_of_frameCheck_ok {f : List Byte} {c : Chunk} (hlen : f.length = (unbe32 (memRead f 0 4)).toNat + 12)
    (h : frameCheck f = .ok c) : ser c = f := by
  apply ser_of_chunkParse_ok
  rw [chunkParse, if_neg (by omega), if_neg (not_not_intro hlen), h]

/-- The chunks that the frame loop gives serialize to the bytes it took, none left over (43_container.md R191). -/
theorem flatMap_ser_of_parseFrames_ok {turns : Nat} {rest : List Byte} {c : Nat} {cs : List Chunk}
    (hle : rest.length ≤ turns) (h : parseFrames turns rest c = .ok cs) : cs.flatMap ser = rest := by
  induction turns generalizing rest c cs with
  | zero => cases h; exact (List.eq_nil_of_length_eq_zero (Nat.le_zero.mp hle)).symm
  | succ turns ih =>
    rcases parseFrames_succ turns rest c with
      ⟨hnil, h'⟩ | ⟨-, -, h'⟩ | ⟨-, -, h'⟩ | ⟨size, hsize, hfits, ⟨_, -, h'⟩ | ⟨x, hx, ⟨_, -, h'⟩ | ⟨xs, hxs, h'⟩⟩⟩ <;>
      rw [h'] at h <;> cases h
    · exact hnil.symm
    · have hframe : ser x = rest.take size := by
        refine ser_of_frameCheck_ok ?_ hx
        rw [memRead_take (by omega), List.length_take_of_le hfits, hsize]
      have htail : xs.flatMap ser = rest.drop size := ih (by rw [List.length_drop]; omega) hxs
      rw [List.flatMap_cons, hframe, htail, List.take_append_drop]

/-- Serializing what the container parser gave writes its input (43_container.md R191). -/
theorem cser_of_containerParse_ok {p : Params} {l : List Byte} {cs : List Chunk} (h : containerParse p l = .ok cs) :
    cser p cs = l := by
  rcases containerParse_cases p l with
    ⟨-, h'⟩ | ⟨-, hsig, ⟨_, -, h'⟩ | ⟨ds, hds, ⟨-, h'⟩ | ⟨-, -, h'⟩ | ⟨-, -, h'⟩⟩⟩ <;>
    rw [h'] at h <;> cases h
  have htail : cs.flatMap ser = l.drop 8 := flatMap_ser_of_parseFrames_ok (by rw [List.length_drop]; omega) hds
  rw [cser, ← hsig, htail]
  exact List.take_append_drop 8 l

/-- A CT.PARSE that succeeded replaced the store by what the parser gave (43_container.md R181). -/
theorem exec_ctParse_succeeds (h : exec .ctParse s = .next t) (herr : t.err = 0) :
    t.cfg = s.cfg ∧ containerParse s.cfg s.ibuf = .ok t.cs := by
  cases hp : containerParse s.cfg s.ibuf with
  | error e =>
    rw [exec_ctParse_of_error hp] at h
    cases h
    exact absurd herr (errCode_ne_zero _)
  | ok cs =>
    rw [exec_ctParse_of_ok hp] at h
    cases h
    exact ⟨rfl, rfl⟩

/-- Settles O40: the store serializes to the input, which fits since it was in IBUF. -/
theorem containerRoundTrip : Obligations.ContainerRoundTrip := by
  unfold Obligations.ContainerRoundTrip
  intro s t hbuf h herr
  obtain ⟨hcfg, hparse⟩ := exec_ctParse_succeeds h herr
  have hser : cser t.cfg t.cs = s.ibuf := by rw [hcfg]; exact cser_of_containerParse_ok hparse
  have hfits : 8 + storeFootprint t.cs ≤ t.cfg.bufCap := by rwa [← cser_length t.cfg, hser, hcfg]
  exact ⟨_, exec_ctSer_of_fits hfits, rfl, hser⟩

/-! ### What was serialized, parsed -/

/-- The frame test on a serialized chunk: the chunk with its cache filled, or FormatError (42_chunk.md R153, R168). -/
theorem frameCheck_ser {d : Chunk} (hd : d.payload.length < 4294967296) :
    frameCheck (ser d) =
      if tagAlpha d.tag = true then .ok (chunkCached d) else .error (.formatError .notAlphabetic) := by
  have hparse := chunkParse_frameWithSum hd (chunkChecksum d)
  rw [if_pos rfl, ← ser_eq_frameWithSum] at hparse
  rcases chunkParse_cases (ser d) with ⟨hlt, -⟩ | ⟨-, -, h⟩ | ⟨-, h⟩
  · rw [ser_length, chunkFootprint] at hlt
    omega
  · rw [h] at hparse
    split at hparse <;> cases hparse
  · rw [← h, hparse]

/-- One turn of the frame loop on input that begins with a serialized chunk (43_container.md R181). -/
theorem parseFrames_ser_append {d : Chunk} (hd : d.payload.length < 4294967296) (turns : Nat) (rest : List Byte)
    (c : Nat) :
    parseFrames (turns + 1) (ser d ++ rest) c =
      if tagAlpha d.tag = true then (parseFrames turns rest (c + chunkFootprint d)).map (chunkCached d :: ·)
      else .error (c, .formatError .notAlphabetic) := by
  have hfield : unbe32 (memRead (ser d ++ rest) 0 4) = reg32 d.payload.length := by
    simp only [ser, List.append_assoc]
    rw [memRead_append_left (be32_length _), unbe32_be32]
  have hsize : (unbe32 (memRead (ser d ++ rest) 0 4)).toNat + 12 = chunkFootprint d := by
    rw [hfield, toNat_reg32 hd, chunkFootprint, Nat.add_comm]
  have hlen : (ser d ++ rest).length = chunkFootprint d + rest.length := by rw [List.length_append, ser_length]
  have h12 : 12 ≤ chunkFootprint d := Nat.le_add_right 12 _
  have hne : (ser d ++ rest).isEmpty = false := by
    rw [← Bool.not_eq_true, List.isEmpty_iff_length_eq_zero]
    omega
  rw [parseFrames, hne, if_neg Bool.false_ne_true, hsize, hlen, if_neg (by omega), if_neg (by omega),
    List.take_left' (ser_length d), List.drop_left' (ser_length d), frameCheck_ser hd]
  cases tagAlpha d.tag with
  | false => rfl
  | true => cases parseFrames turns rest (c + chunkFootprint d) <;> rfl

/-- A chunk whose frame passes the parser's tests: its length fits the length field, and its tag is alphabetic
(42_chunk.md R153, R168). -/
abbrev ReadsBack (d : Chunk) : Prop :=
  d.payload.length < 4294967296 ∧ tagAlpha d.tag = true

/-- The frame loop on input that begins with serialized chunks, one turn for each (43_container.md R181). -/
theorem parseFrames_flatMap_ser_append {cs : List Chunk}
    (hcs : ∀ d ∈ cs, ReadsBack d) (turns : Nat) (rest : List Byte) (c : Nat) :
    parseFrames (cs.length + turns) (cs.flatMap ser ++ rest) c =
      (parseFrames turns rest (c + storeFootprint cs)).map (cs.map chunkCached ++ ·) := by
  induction cs generalizing c with
  | nil =>
    rw [List.length_nil, Nat.zero_add, List.flatMap_nil, List.nil_append, storeFootprint_nil, Nat.add_zero]
    cases parseFrames turns rest c <;> rfl
  | cons d cs ih =>
    obtain ⟨⟨hd, ha⟩, htail⟩ := List.forall_mem_cons.mp hcs
    rw [List.length_cons, Nat.add_right_comm, List.flatMap_cons, List.append_assoc, parseFrames_ser_append hd,
      if_pos ha, ih htail, storeFootprint_cons, ← Nat.add_assoc]
    cases parseFrames turns rest (c + chunkFootprint d + storeFootprint cs) <;> rfl

/-- The frame loop on a serialized store gives its chunks, caches filled (43_container.md R192). -/
theorem parseFrames_flatMap_ser {cs : List Chunk}
    (hcs : ∀ d ∈ cs, ReadsBack d) {turns : Nat} (hle : cs.length ≤ turns)
    (c : Nat) : parseFrames turns (cs.flatMap ser) c = .ok (cs.map chunkCached) := by
  obtain ⟨n, rfl⟩ := Nat.exists_eq_add_of_le hle
  simpa [Except.map] using parseFrames_flatMap_ser_append hcs n [] c

/-- A serialization begins with the signature (43_container.md R190). -/
theorem cser_signature (p : Params) (cs : List Chunk) :
    ¬ ((cser p cs).length < 8 ∨ memRead (cser p cs) 0 8 ≠ p.sig.toList) := by
  rw [cser_length, cser, memRead_append_left Vector.length_toList]
  exact not_or.mpr ⟨by omega, not_not_intro rfl⟩

theorem drop_cser (p : Params) (cs : List Chunk) : (cser p cs).drop 8 = cs.flatMap ser :=
  List.drop_left' Vector.length_toList

/-- The container parser on the serialization of a store within the capacities: its chunks, caches filled
(43_container.md R192). -/
theorem containerParse_cser {p : Params} {cs : List Chunk}
    (hcs : ∀ d ∈ cs, ReadsBack d) (hn : cs.length ≤ p.maxChunks)
    (hcap : storeFootprint cs ≤ p.storeCap) : containerParse p (cser p cs) = .ok (cs.map chunkCached) := by
  have hturns : cs.length ≤ 8 + storeFootprint cs := by have := storeFootprint_ge cs; omega
  rw [containerParse, if_neg (cser_signature p cs), drop_cser, cser_length, parseFrames_flatMap_ser hcs hturns]
  exact (if_neg (by simpa using hn)).trans (if_neg (by omega))

/-- The container parser on a serialization whose last chunk alone has a tag that is not alphabetic: FormatError at the
last frame (43_container.md R192). -/
theorem containerParse_cser_append_of_not_alpha {p : Params} {cs : List Chunk} {c : Chunk}
    (hcs : ∀ d ∈ cs, ReadsBack d) (hc : c.payload.length < 4294967296)
    (ha : tagAlpha c.tag = false) :
    containerParse p (cser p (cs ++ [c])) = .error (8 + storeFootprint cs, .formatError .notAlphabetic) := by
  have hturns : cs.length + 1 ≤ 8 + storeFootprint (cs ++ [c]) := by
    have := storeFootprint_ge cs
    rw [storeFootprint_append]
    omega
  obtain ⟨n, hn⟩ := Nat.exists_eq_add_of_le hturns
  have hframes : parseFrames (8 + storeFootprint (cs ++ [c])) ((cs ++ [c]).flatMap ser) 8 =
      .error (8 + storeFootprint cs, .formatError .notAlphabetic) := by
    rw [hn, Nat.add_assoc, Nat.add_comm 1, List.flatMap_append, parseFrames_flatMap_ser_append hcs, List.flatMap_cons,
      parseFrames_ser_append hc, if_neg (by simp [ha])]
    rfl
  rw [containerParse, if_neg (cser_signature p _), drop_cser, cser_length, hframes]

/-- Two host actions that each answer, one after the other. -/
theorem runActions_pair {a b : HostAction} {u : State} (ha : hostAct a s = .next t) (hb : hostAct b t = .next u) :
    runActions [a, b] s = .next u :=
  runActions_cons_next.mpr ⟨t, ha, runActions_cons_next.mpr ⟨u, hb, rfl⟩⟩

/-- Append and serialize, with room for both (43_container.md R184, R189). -/
theorem runActions_append_ser {c : Chunk} (hw : s.w = some c) (hn : s.cs.length + 1 ≤ s.cfg.maxChunks)
    (hcap : storeFootprint s.cs + chunkFootprint c ≤ s.cfg.storeCap)
    (hfits : 8 + storeFootprint (s.cs ++ [c]) ≤ s.cfg.bufCap) :
    runActions [issue .ctAppend, issue .ctSer] s =
      .next { s with cs := (s.cs ++ [c]).map chunkCached, w := none, obuf := cser s.cfg (s.cs ++ [c]),
                     err := 0, einfo0 := 0, einfo1 := 0 } := by
  apply runActions_pair
  · rw [hostAct_issue (by decide), exec_ctAppend_of_fits hw hn hcap]
  · rw [hostAct_issue (by decide)]
    exact exec_ctSer_of_fits hfits

/-- Load and parse, with room for the input (10_state.md R44, 43_container.md R181). -/
theorem runActions_load_parse {l : List Byte} (hl : l.length ≤ s.cfg.bufCap)
    (h : exec .ctParse (s.setIbuf l) = .next t) :
    runActions [.load l, issue .ctParse] s = .next t :=
  runActions_pair (if_pos hl) ((hostAct_issue (by decide) _).trans h)

/-- Caches are no part of what two stores are compared by (10_state.md R34). -/
theorem map_eraseCache_map_chunkCached (cs : List Chunk) : (cs.map chunkCached).map eraseCache = cs.map eraseCache :=
  List.map_map

/-- Settles O41: append and serialize leave the chunks and their serialization, and the parser answers on that
serialization with the same chunks, or with FormatError at the last frame; a failed parse keeps the store. -/
theorem appendSerializeReparse : Obligations.AppendSerializeReparse := by
  unfold Obligations.AppendSerializeReparse
  intro s c hw halpha hbuf hn hcap hfits
  have hsum : storeFootprint (s.cs ++ [c]) = storeFootprint s.cs + chunkFootprint c := by simp
  have hpay : ∀ d ∈ s.cs ++ [c], d.payload.length < 4294967296 := by
    intro d hd
    have hle := chunkFootprint_le hd
    rw [chunkFootprint] at hle
    omega
  have hcs : ∀ d ∈ s.cs, ReadsBack d := fun d hd =>
    ⟨hpay d (List.mem_append_left _ hd), halpha d hd⟩
  have hc : c.payload.length < 4294967296 := hpay c (by simp)
  have hout : 8 + storeFootprint (s.cs ++ [c]) ≤ s.cfg.bufCap := by omega
  have hload : (cser s.cfg (s.cs ++ [c])).length ≤ s.cfg.bufCap := by rwa [cser_length]
  cases ha : tagAlpha c.tag with
  | true =>
    have hall : ∀ d ∈ s.cs ++ [c], ReadsBack d := by
      rw [List.forall_mem_append, List.forall_mem_singleton]
      exact ⟨hcs, hc, ha⟩
    have hparse := containerParse_cser (p := s.cfg) hall (by simpa using hn) (by omega)
    exact ⟨_, _, runActions_append_ser hw hn hcap hout, runActions_load_parse hload (exec_ctParse_of_ok hparse),
      map_eraseCache_map_chunkCached _, fun _ => rfl, nofun⟩
  | false =>
    have hparse := containerParse_cser_append_of_not_alpha (p := s.cfg) hcs hc ha
    exact ⟨_, _, runActions_append_ser hw hn hcap hout, runActions_load_parse hload (exec_ctParse_of_error hparse),
      map_eraseCache_map_chunkCached _, nofun, fun _ => ⟨rfl, rfl, rfl⟩⟩

/-! ### A removal -/

/-- The serialization without one chunk is the serialization with the bytes of its frame cut out (43_container.md
R194). -/
theorem cser_remove (p : Params) (l r : List Chunk) (c : Chunk) :
    cser p (l ++ r) = (cser p (l ++ c :: r)).take (8 + storeFootprint l) ++
      (cser p (l ++ c :: r)).drop (8 + storeFootprint l + chunkFootprint c) := by
  have happ (m : List Chunk) : cser p (l ++ m) = cser p l ++ m.flatMap ser := by simp [cser]
  have hfront : (cser p (l ++ c :: r)).take (8 + storeFootprint l) = cser p l := by
    rw [happ, List.take_left' (cser_length p l)]
  have hback : (cser p (l ++ c :: r)).drop (8 + storeFootprint l + chunkFootprint c) = r.flatMap ser := by
    rw [happ, List.flatMap_cons, ← List.append_assoc,
      List.drop_left' (by rw [List.length_append, cser_length, ser_length])]
  rw [happ, hfront, hback]

/-- Settles O42: the store is the old one with position `i` erased, which keeps the order of the rest and cuts one frame
out of the serialization. -/
theorem removalKeepsOrder : Obligations.RemovalKeepsOrder := by
  unfold Obligations.RemovalKeepsOrder
  intro s t k i hi h
  rw [exec_ctRemove_of_some hi] at h
  cases h
  obtain ⟨⟨c, hc, -⟩, -⟩ := firstMatch_eq_some_iff.mp hi
  have hcut := cser_remove s.cfg (s.cs.take i) (s.cs.drop (i + 1)) c
  have hsplit : s.cs.take i ++ c :: s.cs.drop (i + 1) = s.cs := by
    obtain ⟨_, rfl⟩ := List.getElem?_eq_some_iff.mp hc
    simp
  rw [hsplit] at hcut
  refine ⟨fun j hj => ?_, fun j hj => ?_, c, hc, storeFootprint_remove hc, fun hfits =>
    ⟨_, exec_ctSer_of_fits hfits, rfl, hcut⟩⟩
  · rw [← List.eraseIdx_eq_take_drop_succ, List.getElem?_eraseIdx_of_lt hj]
  · rw [← List.eraseIdx_eq_take_drop_succ, List.getElem?_eraseIdx_of_ge hj]

end Sys2Proof.Machine
end

section
/-! PROOFS. Errors (60_exceptions.md). A word that decodes is the word of its command and so selects a row, hence a word
that selects none is illegal (R212); the status group describes the last command alone (R217); each command raises what
its row of R219 marks and nothing else. -/

namespace Sys2Proof.Machine

variable {s t : State}

/-! ### Words that decode -/

/-- Format N accepts the operand 0 alone (30_encoding.md R91). -/
theorem encode_of_formatN_ok {i j : Instr} {op : Byte} {arg : Word} (h : formatN i arg = .ok j)
    (hop : opcodeOf i = op) (harg : operandOf i = 0) : encode j = op ++ arg := by
  rw [formatN] at h
  split at h
  · rename_i hzero
    cases h
    rw [encode, hop, harg, hzero]
  · cases h

/-- Format B accepts the operands that are a byte, zero-extended (30_encoding.md R91). -/
theorem encode_of_formatB_ok {i : Byte → Instr} {j : Instr} {op : Byte} {arg : Word} (h : formatB i arg = .ok j)
    (hop : ∀ b, opcodeOf (i b) = op) (harg : ∀ b, operandOf (i b) = b.setWidth 32) : encode j = op ++ arg := by
  rw [formatB] at h
  split at h
  · rename_i hhigh
    cases h
    have hbyte : (arg.extractLsb' 0 8).setWidth 32 = arg := by
      have hnat := congrArg BitVec.toNat hhigh
      apply BitVec.eq_of_toNat_eq
      simp only [BitVec.extractLsb'_toNat, Nat.shiftRight_eq_div_pow, Nat.reducePow, BitVec.ofNat_eq_ofNat,
        BitVec.toNat_ofNat, Nat.zero_mod, BitVec.toNat_setWidth, pow_zero, Nat.div_one] at hnat ⊢
      omega
    rw [encode, hop, harg, hbyte]
  · cases h

/-- Format K accepts every operand, and the key keeps all its bits (30_encoding.md R91, R92). -/
theorem encode_of_formatK_ok {i : Tag → Instr} {j : Instr} {op : Byte} {arg : Word} (h : formatK i arg = .ok j)
    (hop : ∀ k, opcodeOf (i k) = op) (harg : ∀ k, operandOf (i k) = tagWord k) : encode j = op ++ arg := by
  cases h
  rw [encode, hop, harg, tagWord_tagOfWord]

/-- A word that decodes is the word of its command: the decoder reads each opcode in its format (30_encoding.md R90,
R91). -/
theorem encode_of_decode_ok {cw : CommandWord} {i : Instr} (h : decode cw = .ok i) : encode i = cw := by
  rw [← fields_append cw]
  rw [decode] at h
  generalize opField cw = op at h ⊢
  split at h
  -- the cases come in the order of the decoder's rows
  case h_3 => exact encode_of_formatB_ok h (fun _ => rfl) fun _ => rfl
  case h_6 | h_17 | h_18 => exact encode_of_formatK_ok h (fun _ => rfl) fun _ => rfl
  case h_20 => cases h
  all_goals exact encode_of_formatN_ok h rfl rfl

/-- Each command's word holds its two fields and selects a row (30_encoding.md R89, R93). -/
theorem wordOf_statement (i : Instr) : Laws.WordOf.Statement i := by
  cases i with
  | crcByte b => exact Laws.WordOf.crcByte b
  | tagLoad k => exact Laws.WordOf.tagLoad k
  | ctFind k => exact Laws.WordOf.ctFind k
  | ctRemove k => exact Laws.WordOf.ctRemove k
  | _ => unfold Laws.WordOf.Statement; decide

/-- A word that decodes selects a row of the opcode map (30_encoding.md R93). -/
theorem wellFormedWord_of_decode_ok {cw : CommandWord} {i : Instr} (h : decode cw = .ok i) : wellFormedWord cw = true := by
  obtain ⟨-, -, hrow⟩ := wordOf_statement i
  rwa [encode_of_decode_ok h] at hrow

/-- Settles O7: a word that decoded would be the word of its command and select a row, so the word is illegal. -/
theorem illegalWordFailsAlone : Obligations.IllegalWordFailsAlone := by
  unfold Obligations.IllegalWordFailsAlone
  intro s cw hcw
  rcases hostCmd_cases cw s with ⟨i, hd, -⟩ | ⟨e, -, h⟩
  · rw [wellFormedWord_of_decode_ok hd] at hcw
    cases hcw
  · rw [h, raise_eq]
    rfl

/-! ### The status group -/

/-- A command that leaves `ERR` 0 completed, since every error has a code other than 0 (60_exceptions.md R211, R217). -/
theorem exec_completes {i : Instr} (h : exec i s = .next t) (herr : t.err = 0) : ∃ u, complete u = .next t := by
  have hraise (e : Err) (u : State) (hr : exec i s = raise e u) : False := by
    rw [raise_next (hr.symm.trans h)] at herr
    exact errCode_ne_zero e herr
  cases exec_ends i s with
  | done u h' => exact ⟨u, h'.symm.trans h⟩
  | failed e _ _ h' => exact (hraise _ _ h').elim
  | failedAt e c _ _ h' => exact (hraise _ _ h').elim
  | absent k _ h' => exact (hraise _ _ h').elim

/-- No command reads the status group, and every way to end one writes all of it (60_exceptions.md R216, R217). -/
theorem exec_setStatus (i : Instr) (s : State) (e : Byte) (i0 i1 : Word) :
    exec i (s.setStatus e i0 i1) = exec i s := by
  cases i <;> rfl

/-- Settles O47: a command that leaves `ERR` 0 made the success commit, and what it does never depends on the status
group. -/
theorem successCommit : Obligations.SuccessCommit := by
  unfold Obligations.SuccessCommit
  refine ⟨fun i s t h herr => ?_, exec_setStatus⟩
  obtain ⟨u, hu⟩ := exec_completes h herr
  rw [complete_next hu]
  exact ⟨rfl, rfl⟩

/-! ### The matrix of commands and errors -/

/-- Command `i` leaves code `e` in `ERR` from some state of the invariant. -/
abbrev MarkMet (i : Instr) (e : Byte) : Prop :=
  ∃ s t, s.Inv ∧ exec i s = .next t ∧ t.err = e

theorem markMet_of_errAfter {i : Instr} {e : Byte} (hs : s.Inv) (h : (nextState? (exec i s)).map State.err = some e) :
    MarkMet i e := by
  cases hr : exec i s with
  | next t =>
    rw [hr] at h
    exact ⟨s, t, hs, hr, Option.some.inj h⟩
  | fault r => rw [hr] at h; cases h
  | refused r => rw [hr] at h; cases h

/-- Reset has no operand, no input and no chunk, so what needs one fails. -/
theorem markMet_of_reset {i : Instr} {e : Byte} (h : (nextState? (exec i State.reset)).map State.err = some e) :
    MarkMet i e :=
  markMet_of_errAfter (by decide) h

/-- A chunk whose frame is 33 bytes. -/
def largeChunk : Chunk := ⟨⟨0x49, 0x45, 0x4E, 0x44⟩, List.replicate 21 0, none⟩

/-- Parameters with buffers of 32 bytes and room for one chunk. -/
def tightParams : Params := { Params.default with bufCap := 32, maxChunks := 1 }

/-- A state of the invariant at every limit: the chunk in `W` and in the store is too long for OBUF, the store is full,
and the container in IBUF has two chunks. -/
def crowded : State :=
  { State.resetWith tightParams with
    w := some largeChunk
    cs := [largeChunk]
    ibuf := cser tightParams (List.replicate 2 { largeChunk with payload := [] }) }

/-- Each command that tests a capacity fails in the crowded state (60_exceptions.md R214). -/
theorem markMet_capacityExceeded {i : Instr} (hi : i ∈ [.chSer, .ctParse, .ctAppend, .ctSer]) : MarkMet i 10 := by
  refine markMet_of_errAfter (s := crowded) (by decide +kernel) ?_
  revert i
  decide +kernel

/-- A frame that fails with code 1, 2, 3 or 5: the tag is not alphabetic, the frame is cut short, its length field is
one too large, or its checksum is wrong (42_chunk.md R153, R154). -/
def faultyFrame : Byte → List Byte
  | 1 => List.replicate 12 0
  | 2 => [0]
  | 3 => be32 1 ++ List.replicate 8 0
  | _ => be32 0 ++ [0x49, 0x45, 0x4E, 0x44] ++ be32 0

/-- Each parser fails on each faulty frame, CT.PARSE after the signature (42_chunk.md R163, 43_container.md R181). -/
theorem markMet_of_faultyFrame {e : Byte} (he : e ∈ [1, 2, 3, 5]) : MarkMet .chParse e ∧ MarkMet .ctParse e := by
  constructor
  · refine markMet_of_errAfter (s := State.reset.setIbuf (faultyFrame e)) ?_ ?_ <;>
    · revert e
      decide +kernel
  · refine markMet_of_errAfter (s := State.reset.setIbuf (State.reset.cfg.sig.toList ++ faultyFrame e)) ?_ ?_ <;>
    · revert e
      decide +kernel

/-- Every mark of R219 is met within the invariant. -/
theorem markMet_of_canRaise {i : Instr} {e : Byte} (h : canRaise i e = true) : MarkMet i e := by
  cases i with
  | nop | crcInit | crcByte _ | crcBuf | crcFinal | tagLoad _ | ctFind _ => cases h
  | tagParse | chBuild | chLen | chCrc | chData | chTag | ctRemove _ =>
    obtain rfl := eq_of_beq h
    exact markMet_of_reset rfl
  | chSer | ctAppend =>
    simp only [canRaise, Bool.or_eq_true, beq_iff_eq] at h
    rcases h with rfl | rfl
    · exact markMet_of_reset rfl
    · exact markMet_capacityExceeded (by simp)
  | chParse => exact (markMet_of_faultyFrame (by simpa [canRaise, or_assoc] using h)).1
  | ctParse =>
    simp only [canRaise, Bool.or_eq_true, beq_iff_eq] at h
    rcases h with (hframe | rfl) | rfl
    · exact (markMet_of_faultyFrame (by simpa [or_assoc] using hframe)).2
    · exact markMet_of_reset rfl
    · exact markMet_capacityExceeded (by simp)
  | ctSer =>
    obtain rfl := eq_of_beq h
    exact markMet_capacityExceeded (by simp)

/-- A word of a format K command decodes whatever its operand (30_encoding.md R91). -/
theorem decode_ok_of_formatK {cw : CommandWord} (h : opField cw = 0x20 ∨ opField cw = 0x42 ∨ opField cw = 0x43) :
    ∃ i, decode cw = .ok i := by
  rcases h with h | h | h <;> rw [decode, h] <;> exact ⟨_, rfl⟩

/-- The operand 0x100 is illegal in format N, which wants 0, and in format B, which wants a byte (30_encoding.md R91). -/
theorem decode_opcodeOf_ne_ok {i : Instr} (hi : ∀ k, i ≠ .tagLoad k ∧ i ≠ .ctFind k ∧ i ≠ .ctRemove k) (j : Instr) :
    decode (opcodeOf i ++ (0x100 : Word)) ≠ .ok j := by
  rw [decode, opField_append, argField_append]
  cases i with
  | tagLoad k => exact absurd rfl (hi k).1
  | ctFind k => exact absurd rfl (hi k).2.1
  | ctRemove k => exact absurd rfl (hi k).2.2
  | _ => nofun

/-- Settles O48: a failing command raises a code of its row, each mark has its state, and the operand decides which words
are illegal. -/
theorem errorMatrix : Obligations.ErrorMatrix := by
  unfold Obligations.ErrorMatrix
  exact ⟨fun i s t h herr => (exec_err h).resolve_left herr, fun i e => markMet_of_canRaise,
    fun cw => decode_ok_of_formatK, fun i hi => ⟨_, opField_append _ _, decode_opcodeOf_ne_ok hi⟩⟩

end Sys2Proof.Machine
end

section
/-! PROOFS. Hazards between commands (70_reset_and_hazards.md). A successful CT.APPEND moves the chunk out of `W`, so the
next command that needs `W` fails (R244). -/

namespace Sys2Proof.Machine

variable {s t : State}

/-! ### `W` after CT.APPEND -/

theorem err_ne_zero_of_raise {e : Err} (h : raise e s = .next t) : t.err ≠ 0 := by
  rw [raise_next h]
  exact errCode_ne_zero e

/-- A CT.APPEND that leaves `ERR` 0 moved the chunk of `W` to the end of the store (43_container.md R184). -/
theorem exec_ctAppend_succeeds (h : exec .ctAppend s = .next t) (herr : t.err = 0) :
    ∃ c, s.w = some c ∧ t = { s with cs := s.cs ++ [c], w := none, err := 0, einfo0 := 0, einfo1 := 0 } := by
  rcases withChunk_cases s _ with ⟨c, hw, h'⟩ | ⟨-, h'⟩ <;> rw [exec, execCtAppend, h'] at h
  · split at h
    · exact absurd herr (err_ne_zero_of_raise h)
    · split at h
      · exact absurd herr (err_ne_zero_of_raise h)
      · exact ⟨c, hw, complete_next h⟩
  · exact absurd herr (err_ne_zero_of_raise h)

/-- Each command of 70_reset_and_hazards.md R244 tests `W` before anything else (60_exceptions.md R213). -/
theorem exec_of_work_none {i : Instr} (hi : i ∈ [Instr.chSer, .chLen, .chCrc, .chData, .chTag, .ctAppend])
    (hw : s.w = none) : exec i s = raise (.operandMissing .workingChunk) s := by
  simp only [List.mem_cons, List.not_mem_nil, or_false] at hi
  rcases hi with rfl | rfl | rfl | rfl | rfl | rfl <;> exact withChunk_of_none hw _

/-- Settles O43: the success moved the chunk out of `W`, and each of the six commands tests `W` first. -/
theorem appendMovesTheChunk : Obligations.AppendMovesTheChunk := by
  unfold Obligations.AppendMovesTheChunk
  intro s t i h herr hi
  obtain ⟨c, -, ht⟩ := exec_ctAppend_succeeds h herr
  have hw : t.w = none := by rw [ht]
  exact ⟨hw, exec_of_work_none hi hw⟩

end Sys2Proof.Machine
end

section
/-! PROOFS. Command words and host actions (30_encoding.md, 10_state.md R40 to R45). Decode and encode undo each other
(R89 to R92) and decode accepts exactly what the match and mask columns select (R93); a step performs the host's
oldest action, whose effect is the table's (R44); every register number reads as R41 says. -/

namespace Sys2Proof.Machine

variable {s t : State}

/-! ### Decode after encode -/

/-- A byte operand is cut out of its word again, with nothing above it (30_encoding.md R91, R92). -/
theorem formatB_setWidth (i : Byte → Instr) (b : Byte) : formatB i (b.setWidth 32) = .ok (i b) := by
  have hhigh : (b.setWidth 32).extractLsb' 8 24 = 0 := by
    apply BitVec.eq_of_getLsbD_eq
    intro j hj
    simp
  have hlow : (b.setWidth 32).extractLsb' 0 8 = b := by
    apply BitVec.eq_of_getLsbD_eq
    intro j hj
    simp [show j < 32 by omega, hj]
  rw [formatB, if_pos hhigh, hlow]

/-- A key is cut out of its word again (30_encoding.md R92). -/
theorem formatK_tagWord (i : Tag → Instr) (k : Tag) : formatK i (tagWord k) = .ok (i k) := by
  rw [formatK, tagOfWord_tagWord]

theorem decode_encode (i : Instr) : decode (encode i) = .ok i := by
  rw [decode, encode, opField_append, argField_append]
  cases i with
  | crcByte b => exact formatB_setWidth .crcByte b
  | tagLoad k => exact formatK_tagWord .tagLoad k
  | ctFind k => exact formatK_tagWord .ctFind k
  | ctRemove k => exact formatK_tagWord .ctRemove k
  | _ => rfl

/-- Settles O1: the two fields of the word are read back, and each format gives its operand back. -/
theorem decodeEncodeRoundTrip : Obligations.DecodeEncodeRoundTrip := by
  unfold Obligations.DecodeEncodeRoundTrip
  exact decode_encode

/-- Settles O2: the decoder reads each opcode in its format, and no format drops a bit. -/
theorem encodeDecodeRoundTrip : Obligations.EncodeDecodeRoundTrip := by
  unfold Obligations.EncodeDecodeRoundTrip
  exact fun _ _ => encode_of_decode_ok

/-- Settles O4: each word is read bit by bit. -/
theorem commandWordsDecode : Obligations.CommandWordsDecode := by
  unfold Obligations.CommandWordsDecode
  decide

/-! ### The opcode map -/

theorem opField_and (x y : CommandWord) : opField (x &&& y) = opField x &&& opField y :=
  BitVec.extractLsb'_and

theorem argField_and (x y : CommandWord) : argField (x &&& y) = argField x &&& argField y :=
  BitVec.extractLsb'_and

/-- Every mask covers the whole opcode field (30_encoding.md R93). -/
theorem opField_mask {r : OpcodeRow} (hr : r ∈ opcodeTable) : opField r.mask = BitVec.allOnes 8 := by
  revert r
  decide

/-- A word has the opcode of the row it selects (30_encoding.md R93). -/
theorem opField_of_selects {r : OpcodeRow} {cw : CommandWord} (hr : r ∈ opcodeTable) (h : r.selects cw = true) :
    opField cw = opField r.matchWord := by
  have hmask := opField_mask hr
  rw [← eq_of_beq h, opField_and, hmask, BitVec.and_allOnes]

/-- A row of the opcode map is of format N, B or K, as its mask shows (30_encoding.md R91, R93). -/
inductive RowFormat (op : Byte) (argMask : Word) : Prop where
  | n (i : Instr) (hi : isFormatN i = true) (hop : op = opcodeOf i) (hmask : argMask = BitVec.allOnes 32)
  | b (hop : op = 0x11) (hmask : argMask = 0xFFFFFF00)
  | k (hop : op = 0x20 ∨ op = 0x42 ∨ op = 0x43)

theorem rowFormat_of_mem {r : OpcodeRow} (hr : r ∈ opcodeTable) :
    RowFormat (opField r.matchWord) (argField r.mask) := by
  have hrow : ∀ r ∈ opcodeTable,
      (∃ p ∈ plainMnemonics, isFormatN p.2 = true ∧ opField r.matchWord = opcodeOf p.2 ∧
        argField r.mask = BitVec.allOnes 32) ∨
      (opField r.matchWord = 0x11 ∧ argField r.mask = 0xFFFFFF00) ∨
      (opField r.matchWord = 0x20 ∨ opField r.matchWord = 0x42 ∨ opField r.matchWord = 0x43) := by decide
  rcases hrow r hr with ⟨p, -, hi, hop, hmask⟩ | ⟨hop, hmask⟩ | hop
  · exact .n p.2 hi hop hmask
  · exact .b hop hmask
  · exact .k hop

/-- The operand field of every match word is 0 (30_encoding.md R93). -/
theorem argField_matchWord {r : OpcodeRow} (hr : r ∈ opcodeTable) : argField r.matchWord = 0 := by
  revert r
  decide

/-- An operand with nothing above its low byte is a byte (30_encoding.md R91). -/
theorem high_of_and_mask {arg : Word} (h : arg &&& 0xFFFFFF00 = 0) : arg.extractLsb' 8 24 = 0 := by
  have hones : (0xFFFFFF00 : Word).extractLsb' 8 24 = BitVec.allOnes 24 := by decide
  have hcut := congrArg (BitVec.extractLsb' 8 24) h
  rwa [BitVec.extractLsb'_and, hones, BitVec.and_allOnes] at hcut

/-- A word that selects a row decodes: its operand is one that the row's format takes (30_encoding.md R91, R93). -/
theorem decode_ok_of_selects {r : OpcodeRow} {cw : CommandWord} (hr : r ∈ opcodeTable) (h : r.selects cw = true) :
    ∃ i, decode cw = .ok i := by
  have hop := opField_of_selects hr h
  have harg : argField cw &&& argField r.mask = 0 := by
    rw [← argField_and, eq_of_beq h, argField_matchWord hr]
  rcases rowFormat_of_mem hr with ⟨i, hi, hrow, hmask⟩ | ⟨hrow, hmask⟩ | hrow
  · rw [hmask, BitVec.and_allOnes] at harg
    rw [← fields_append cw, hop, hrow, harg, decode_of_isFormatN hi]
    exact ⟨i, if_pos rfl⟩
  · rw [hmask] at harg
    rw [decode, hop, hrow]
    exact ⟨_, if_pos (high_of_and_mask harg)⟩
  · exact decode_ok_of_formatK (hop ▸ hrow)

/-- No two rows of the opcode map have one opcode (30_encoding.md R93). -/
theorem opcodeTable_pairwise : opcodeTable.Pairwise fun r r' => opField r.matchWord ≠ opField r'.matchWord := by
  decide

/-- Settles O3: a command's word selects its row, a word that selects a row has an operand of the row's format, and
two rows would give one word two opcodes. -/
theorem decodeIsTheOpcodeMap : Obligations.DecodeIsTheOpcodeMap := by
  unfold Obligations.DecodeIsTheOpcodeMap
  refine ⟨fun cw => ⟨fun ⟨i, hi⟩ => wellFormedWord_of_decode_ok hi, fun h => ?_⟩, ?_⟩
  · obtain ⟨r, hr, hsel⟩ := List.any_eq_true.mp h
    exact decode_ok_of_selects hr hsel
  · refine opcodeTable_pairwise.imp_of_mem fun hr hr' hne cw ⟨hsel, hsel'⟩ => hne ?_
    rw [← opField_of_selects hr hsel, opField_of_selects hr' hsel']

/-- The decoder rejects a word that selects no row (30_encoding.md R94). -/
theorem decode_error_of_not_wellFormedWord {cw : CommandWord} (h : wellFormedWord cw = false) :
    ∃ e, decode cw = .error e := by
  cases hd : decode cw with
  | error e => exact ⟨e, rfl⟩
  | ok i =>
    rw [wellFormedWord_of_decode_ok hd] at h
    cases h

/-! ### Steps -/

/-- Settles O5: the step performs the pending action, which is the decoded command. -/
theorem stepRunsTheDecodedCommand : Obligations.StepRunsTheDecodedCommand := by
  unfold Obligations.StepRunsTheDecodedCommand
  intro s cw rest i hp hd
  exact (step_of_pending hp).trans (hostCmd_of_ok hd _)

/-- A number below 2^40 is its own command word. -/
theorem ofNat_toNat_mod (cw : CommandWord) : BitVec.ofNat 40 (cw.toNat % 2 ^ 40) = cw := by
  rw [Nat.mod_eq_of_lt cw.isLt, BitVec.ofNat_toNat, BitVec.setWidth_eq]

/-- Settles O6: the word placed is the command's own, and it stands first in the list of pending actions. -/
theorem stepRunsThePlacedWord : Obligations.StepRunsThePlacedWord := by
  unfold Obligations.StepRunsThePlacedWord
  intro s i
  constructor
  · simp only [decodeTableWord, ofNat_toNat_mod, decode_encode]
    exact if_pos (Nat.mod_lt _ (by decide))
  · rw [State.withFetchWord, ofNat_toNat_mod]
    exact (step_of_pending (a := issue i) (rest := s.pending) rfl).trans (hostAct_issue (decode_encode i) s)

/-- The action of a pending list, with the list taken along (10_state.md R44). -/
theorem step_read {n : Nat} {rest : List HostAction} (hp : s.pending = .read n :: rest) :
    step s = .next { s with
      pending := rest, observed := .register n (registerValue n s) :: s.observed,
      freeReads := if (n = 6 ∨ n = 7) ∧ s.tv = false then s.freeReads + 1 else s.freeReads } := by
  rw [step_of_pending hp, hostAct, hostRead_eq, registerValue_setPending, readIsFree_setPending]
  simp only [readIsFree_iff]
  rfl

theorem step_load {bytes : List Byte} {rest : List HostAction} (hp : s.pending = .load bytes :: rest) :
    (bytes.length ≤ s.cfg.bufCap → step s = .next { s with pending := rest, ibuf := bytes }) ∧
    (s.cfg.bufCap < bytes.length → step s = .refused .loadTooLong) := by
  rw [step_of_pending hp]
  exact ⟨fun h => if_pos h, fun h => if_neg (Nat.not_le.mpr h)⟩

/-- Settles O8: the step performs the pending action, and each action is its row of the table. -/
theorem hostActionsFollowTheTable : Obligations.HostActionsFollowTheTable := by
  unfold Obligations.HostActionsFollowTheTable
  intro s a rest hp
  cases a with
  | reset => exact step_of_pending hp
  | load bytes => exact step_load hp
  | cmd cw =>
    refine ⟨fun i hd => (step_of_pending hp).trans (hostCmd_of_ok hd _), fun h => ?_⟩
    obtain ⟨e, hd⟩ := decode_error_of_not_wellFormedWord h
    exact (step_of_pending hp).trans (hostCmd_of_error hd _)
  | read n => exact step_read hp
  | readOut => exact step_of_pending hp

end Sys2Proof.Machine
end

section
/-! PROOFS. What a command does, said once: the state it completes in, or the state it fails in, from which the rules
that speak of every command follow. Every command answers (93_implementation_defined.md Part 1); it writes nothing but
what its row of 10_state.md R43 lists, on failure no more than 60_exceptions.md R216 says; it reads nothing but what
its row lists. -/

namespace Sys2Proof.Machine

variable {s s' t u u' : State}

/-! ### How a command ends -/

/-- Command `i` completes from `s` in `u`, the status group still to be cleared. -/
inductive Completes (s : State) : Instr → State → Prop where
  | nop : Completes s .nop s
  | crcInit : Completes s .crcInit (s.setCrcacc crcOnes)
  | crcByte (b : Byte) : Completes s (.crcByte b) (s.setCrcacc (crcStep s.crcacc b))
  | crcBuf : Completes s .crcBuf (s.setCrcacc (crcFeed s.crcacc s.ibuf))
  | crcFinal : Completes s .crcFinal (s.setRes (s.crcacc ^^^ crcOnes))
  | tagLoad (k : Tag) : Completes s (.tagLoad k) (s.setTag k)
  | tagParse (k : Tag) (hin : s.ibuf = tagBytes k) (hk : tagAlpha k = true) : Completes s .tagParse (s.setTag k)
  | chBuild (htv : s.tv = true) : Completes s .chBuild (s.setWork (some ⟨s.t, s.ibuf, none⟩))
  | chLen (c : Chunk) (hw : s.w = some c) : Completes s .chLen (s.setRes (reg32 c.payload.length))
  | chCrc (c : Chunk) (hw : s.w = some c) :
      Completes s .chCrc ((s.setWork (some (chunkCached c))).setRes (chunkChecksum c))
  | chSer (c : Chunk) (hw : s.w = some c) (hcap : (ser c).length ≤ s.cfg.bufCap) :
      Completes s .chSer ((s.setWork (some (chunkCached c))).setObuf (ser c))
  | chParse (c : Chunk) (hc : chunkParse s.ibuf = .ok c) :
      Completes s .chParse ((s.setWork (some c)).setCur s.ibuf.length)
  | chData (c : Chunk) (hw : s.w = some c) : Completes s .chData (s.setObuf c.payload)
  | chTag (c : Chunk) (hw : s.w = some c) : Completes s .chTag (s.setTag c.tag)
  | ctParse (cs : List Chunk) (hcs : containerParse s.cfg s.ibuf = .ok cs) :
      Completes s .ctParse ((s.setStore cs).setCur s.ibuf.length)
  | ctAppend (c : Chunk) (hw : s.w = some c) (hn : s.cs.length + 1 ≤ s.cfg.maxChunks)
      (hcap : storeFootprint s.cs + chunkFootprint c ≤ s.cfg.storeCap) :
      Completes s .ctAppend ((s.setStore (s.cs ++ [c])).setWork none)
  | ctFind (k : Tag) (i : Nat) (hi : firstMatch s.cs k = some i) :
      Completes s (.ctFind k) ((s.setMatch true i).setWork s.cs[i]?)
  | ctFindAbsent (k : Tag) (hk : firstMatch s.cs k = none) :
      Completes s (.ctFind k) (s.setMatch false s.cs.length)
  | ctRemove (k : Tag) (i : Nat) (hi : firstMatch s.cs k = some i) :
      Completes s (.ctRemove k) (((s.setWork s.cs[i]?).setStore (s.cs.take i ++ s.cs.drop (i + 1))).setMatch true i)
  | ctSer (hcap : (cser s.cfg s.cs).length ≤ s.cfg.bufCap) :
      Completes s .ctSer ((s.setStore (s.cs.map chunkCached)).setObuf (cser s.cfg s.cs))

/-- Command `i` fails from `s` in `u`, the status group still to be written (60_exceptions.md R216). -/
inductive FailsIn (s : State) (i : Instr) : State → Prop where
  | plain (hi : ∀ k, i ≠ .ctRemove k) : FailsIn s i s
  | parser (c : Nat) (hi : i = .chParse ∨ i = .ctParse) (hc : c ≤ s.ibuf.length) : FailsIn s i (s.setCur c)
  | absent (k : Tag) (hi : i = .ctRemove k) (hk : firstMatch s.cs k = none) :
      FailsIn s i (s.setMatch false s.cs.length)

/-- The outcome of a command: it completes, or raises an error in the state it fails in. -/
inductive Runs (s : State) (i : Instr) : Result → Prop where
  | completes {u : State} (h : Completes s i u) : Runs s i (complete u)
  | fails {u : State} (e : Err) (h : FailsIn s i u) : Runs s i (raise e u)

/-- A command that needs `W` runs as its body does, or fails with OperandMissing(2). -/
theorem runs_withChunk {i : Instr} {body : Chunk → Result} (hi : ∀ k, i ≠ .ctRemove k)
    (hb : ∀ c, s.w = some c → Runs s i (body c)) : Runs s i (withChunk s body) := by
  rcases withChunk_cases s body with ⟨c, hw, h⟩ | ⟨-, h⟩ <;> rw [h]
  · exact hb c hw
  · exact .fails _ (.plain hi)

/-- Every command runs in one of these ways, from every state. -/
theorem exec_runs (i : Instr) (s : State) : Runs s i (exec i s) := by
  cases i with
  | nop => exact .completes .nop
  | crcInit => exact .completes .crcInit
  | crcByte b => exact .completes (.crcByte b)
  | crcBuf => exact .completes .crcBuf
  | crcFinal => exact .completes .crcFinal
  | tagLoad k => exact .completes (.tagLoad k)
  | tagParse =>
    rw [exec, execTagParse]
    split
    · exact .fails _ (.plain nofun)
    · rename_i hlen
      have hin : s.ibuf = memRead s.ibuf 0 4 := by rw [← not_not.mp hlen, memRead_all]
      split
      · rename_i hk
        refine .completes (.tagParse _ ?_ hk)
        rw [← hin, tagBytes_tagOfBytes (not_not.mp hlen)]
      · exact .fails _ (.plain nofun)
  | chBuild =>
    rw [exec, execChBuild]
    rcases withTag_cases s _ with ⟨htv, h⟩ | ⟨-, h⟩ <;> rw [h]
    · rw [memRead_all]
      exact .completes (.chBuild htv)
    · exact .fails _ (.plain nofun)
  | chLen => exact runs_withChunk nofun fun c hw => .completes (.chLen c hw)
  | chCrc => exact runs_withChunk nofun fun c hw => .completes (.chCrc c hw)
  | chSer =>
    refine runs_withChunk nofun fun c hw => ?_
    split
    · exact .fails _ (.plain nofun)
    · rename_i hcap
      exact .completes (.chSer c hw (by rw [ser_length]; exact Nat.not_lt.mp hcap))
  | chParse =>
    rw [exec, execChParse, memRead_all]
    split
    · exact .fails _ (.parser 0 (.inl rfl) (Nat.zero_le _))
    · exact .completes (.chParse _ ‹_›)
  | chData => exact runs_withChunk nofun fun c hw => .completes (.chData c hw)
  | chTag => exact runs_withChunk nofun fun c hw => .completes (.chTag c hw)
  | ctParse =>
    rw [exec, execCtParse]
    split
    · exact .fails _ (.parser _ (.inr rfl) (containerParse_error ‹_›).1)
    · exact .completes (.ctParse _ ‹_›)
  | ctAppend =>
    refine runs_withChunk nofun fun c hw => ?_
    split
    · exact .fails _ (.plain nofun)
    · rename_i hn
      split
      · exact .fails _ (.plain nofun)
      · rename_i hcap
        exact .completes (.ctAppend c hw (Nat.not_lt.mp hn) (Nat.not_lt.mp hcap))
  | ctFind k =>
    rw [exec, execCtFind]
    split
    · exact .completes (.ctFind k _ ‹_›)
    · exact .completes (.ctFindAbsent k ‹_›)
  | ctRemove k =>
    rw [exec, execCtRemove]
    split
    · exact .completes (.ctRemove k _ ‹_›)
    · exact .fails _ (.absent k rfl ‹_›)
  | ctSer =>
    rw [exec, execCtSer]
    split
    · exact .fails _ (.plain nofun)
    · rename_i hcap
      exact .completes (.ctSer (by rw [cser_length]; exact Nat.not_lt.mp hcap))

/-- A command that answered `t` completed, with `ERR` 0, or failed, with `ERR` the code of its error. -/
theorem exec_next {i : Instr} (h : exec i s = .next t) :
    (∃ u, Completes s i u ∧ t = u.setStatus 0 0 0) ∨
    (∃ e u, FailsIn s i u ∧ t = u.setStatus (errCode e) (errInfo0 e) (errInfo1 e)) := by
  have hruns := exec_runs i s
  rw [h] at hruns
  generalize hr : Host.Outcome.next t = r at hruns
  cases hruns with
  | completes hc => exact .inl ⟨_, hc, complete_next hr.symm⟩
  | fails e hf => exact .inr ⟨e, _, hf, raise_next hr.symm⟩

/-! ### Every command answers -/

/-- What no command writes: IBUF and the model's own fields. -/
abbrev SameInput (s t : State) : Prop :=
  t.cfg = s.cfg ∧ t.ibuf = s.ibuf ∧ t.pending = s.pending ∧ t.observed = s.observed ∧ t.freeReads = s.freeReads

theorem Completes.sameInput {i : Instr} (h : Completes s i u) : SameInput s u := by
  cases h <;> exact ⟨rfl, rfl, rfl, rfl, rfl⟩

theorem FailsIn.sameInput {i : Instr} (h : FailsIn s i u) : SameInput s u := by
  cases h <;> exact ⟨rfl, rfl, rfl, rfl, rfl⟩

theorem exec_answers (i : Instr) (s : State) : ∃ t, exec i s = .next t ∧ SameInput s t := by
  generalize hr : exec i s = r
  have hruns := exec_runs i s
  rw [hr] at hruns
  cases hruns with
  | completes h => exact ⟨_, rfl, h.sameInput⟩
  | fails e h => exact ⟨_, rfl, h.sameInput⟩

/-- Settles O44: a command completes or raises, which are both next states, and no writer it uses is one of these
fields. -/
theorem everyCommandAnswers : Obligations.EveryCommandAnswers := by
  unfold Obligations.EveryCommandAnswers
  exact exec_answers

/-- A host action answers unless it is a `HostLoad` that does not fit (10_state.md R44). -/
theorem hostAct_answers {a : HostAction} (ha : ∀ bytes, a = .load bytes → bytes.length ≤ s.cfg.bufCap) :
    ∃ t, hostAct a s = .next t := by
  cases a with
  | reset => exact ⟨_, rfl⟩
  | load bytes => exact ⟨_, if_pos (ha bytes rfl)⟩
  | cmd cw =>
    rcases hostCmd_cases cw s with ⟨i, -, h⟩ | ⟨e, -, h⟩ <;> rw [hostAct, h]
    · obtain ⟨t, ht, -⟩ := exec_answers i s
      exact ⟨t, ht⟩
    · exact ⟨_, rfl⟩
  | read n => exact ⟨_, rfl⟩
  | readOut => exact ⟨_, rfl⟩

/-- Settles O9: idling is the first case of a step, a free read is within its register's width, and the load that does
not fit is the one action without a next state. -/
theorem onlyAnOverlongLoadIsRefused : Obligations.OnlyAnOverlongLoadIsRefused := by
  unfold Obligations.OnlyAnOverlongLoadIsRefused
  refine ⟨fun s hp => ?idle, fun s n rest hp hn htv => ⟨registerValue n s, ?width, ?read⟩,
    fun s => ⟨?answers, fun h => ?refused⟩⟩
  case idle => rw [step, hp]
  case width =>
    obtain ⟨h6, h7⟩ := registerValue_free_lt s htv
    rcases hn with rfl | rfl
    · exact h6
    · exact h7
  case read => rw [step_read hp, if_pos ⟨hn, htv⟩]
  case answers =>
    rintro ⟨t, ht⟩ ⟨bytes, rest, hp, hlong⟩
    rw [(step_load hp).2 hlong] at ht
    cases ht
  case refused =>
    rcases step_cases s with ⟨-, hidle⟩ | ⟨a, rest, hp, hact⟩
    · exact ⟨s, hidle⟩
    · rw [hact]
      refine hostAct_answers fun bytes hload => Nat.not_lt.mp fun hlong => h ⟨bytes, rest, ?_, hlong⟩
      rw [hp, hload]

/-! ### What a failure writes -/

/-- Settles O46: a command that left `ERR` not 0 failed, and the three ways to fail write `CUR` or `FOUND` and `IDX`
at most. -/
theorem failureCommit : Obligations.FailureCommit := by
  unfold Obligations.FailureCommit
  intro i s t h herr
  rcases exec_next h with ⟨u, -, rfl⟩ | ⟨e, u, hf, rfl⟩
  · exact absurd rfl herr
  · cases hf with
    | plain hi => exact ⟨rfl, fun _ _ => rfl, fun _ => ⟨rfl, rfl⟩, fun k hk => absurd hk (hi k)⟩
    | parser c hi hc =>
      refine ⟨rfl, fun h1 h2 => ?_, fun _ => ⟨rfl, rfl⟩, fun k hk => ?_⟩
      · exact (hi.elim h1 h2).elim
      · subst hk
        exact hi.elim nofun nofun
    | absent k hi _ => exact ⟨rfl, fun _ _ => rfl, fun hk => absurd hi (hk k), fun _ _ => ⟨rfl, rfl⟩⟩

end Sys2Proof.Machine
end

section
/-! PROOFS. The read and write table (10_state.md R43). Each writer of the state writes the elements named for it and
leaves the others; so a command writes nothing that its row does not list, and two states that agree on what its row
lists as read get the same from it. -/

namespace Sys2Proof.Machine

variable {s s' t t' u u' : State}

/-! ### Elements -/

theorem Same.refl (e : Element) (s : State) : Same e s s := by
  cases e <;> simp [Same]

theorem Same.trans {e : Element} (h : Same e s t) (h' : Same e t u) : Same e s u := by
  cases e <;> simp_all [Same]

theorem Same.symm {e : Element} (h : Same e s t) : Same e t s := by
  cases e <;> simp_all [Same]

/-- The writer `f` writes the elements `L`, the same in every state, and leaves the others. -/
structure Writes (L : List Element) (f : State → State) : Prop where
  keeps : ∀ s e, e ∉ L → Same e s (f s)
  sets : ∀ s s' e, e ∈ L → Same e (f s) (f s')

theorem writes_setStatus (code : Byte) (i0 i1 : Word) : Writes [] (·.setStatus code i0 i1) where
  keeps _ e _ := by cases e <;> simp_all [Same]
  sets _ _ _ he := by cases he

theorem writes_setTag (k : Tag) : Writes [.tag] (·.setTag k) where
  keeps _ e _ := by cases e <;> simp_all [Same]
  sets _ _ e _ := by cases e <;> simp_all [Same]

theorem writes_setRes (x : Word) : Writes [.res] (·.setRes x) where
  keeps _ e _ := by cases e <;> simp_all [Same]
  sets _ _ e _ := by cases e <;> simp_all [Same]

theorem writes_setCrcacc (x : Word) : Writes [.crcacc] (·.setCrcacc x) where
  keeps _ e _ := by cases e <;> simp_all [Same]
  sets _ _ e _ := by cases e <;> simp_all [Same]

theorem writes_setCur (n : Nat) : Writes [.cur] (·.setCur n) where
  keeps _ e _ := by cases e <;> simp_all [Same]
  sets _ _ e _ := by cases e <;> simp_all [Same]

theorem writes_setMatch (f : Bool) (n : Nat) : Writes [.found, .idx] (·.setMatch f n) where
  keeps _ e _ := by cases e <;> simp_all [Same]
  sets _ _ e _ := by cases e <;> simp_all [Same]

theorem writes_setWork (c : Option Chunk) : Writes [.work, .workCache] (·.setWork c) where
  keeps _ e _ := by cases e <;> simp_all [Same]
  sets _ _ e _ := by cases e <;> simp_all [Same]

theorem writes_setStore (cs : List Chunk) : Writes [.store, .storeCaches] (·.setStore cs) where
  keeps _ e _ := by cases e <;> simp_all [Same]
  sets _ _ e _ := by cases e <;> simp_all [Same]

theorem writes_setObuf (l : List Byte) : Writes [.output] (·.setObuf l) where
  keeps _ e _ := by cases e <;> simp_all [Same]
  sets _ _ e _ := by cases e <;> simp_all [Same]

/-! ### What a command writes -/

/-- Nothing but the elements `L` differs. -/
def KeptBut (L : List Element) (s u : State) : Prop :=
  ∀ e, e ∉ L → Same e s u

theorem KeptBut.refl (L : List Element) (s : State) : KeptBut L s s :=
  fun e _ => Same.refl e s

theorem KeptBut.write {L M : List Element} {f : State → State} (h : KeptBut L s u) (hf : Writes M f)
    (hM : M ⊆ L := by simp [writesOnSuccess, writesOnFailure]) :
    KeptBut L s (f u) :=
  fun e he => (h e he).trans (hf.keeps u e fun hm => he (hM hm))

/-- Filling the cache of `W` writes no chunk (10_state.md R34, R39). -/
theorem keptBut_fillWork {c : Chunk} (hw : s.w = some c) :
    KeptBut [.workCache] s (s.setWork (some (chunkCached c))) := by
  intro e he
  cases e with
  | workCache => simp at he
  | work => simp only [Same, State.setWork_w, hw]; rfl
  | _ => simp [Same]

/-- Filling the caches of `CS` writes no chunk (10_state.md R34, R39). -/
theorem keptBut_fillStore (s : State) : KeptBut [.storeCaches] s (s.setStore (s.cs.map chunkCached)) := by
  intro e he
  cases e with
  | storeCaches => simp at he
  | store => exact map_eraseCache_map_chunkCached s.cs
  | _ => simp [Same]

theorem KeptBut.mono {L M : List Element} (h : KeptBut L s u)
    (hLM : L ⊆ M := by simp [writesOnSuccess, writesOnFailure]) : KeptBut M s u :=
  fun e he => h e fun hm => he (hLM hm)

/-- A command that completes wrote what its row lists (10_state.md R43, "writes on success"). -/
theorem Completes.keptBut {i : Instr} (h : Completes s i u) : KeptBut (writesOnSuccess i) s u := by
  have hself : KeptBut (writesOnSuccess i) s s := .refl _ s
  cases h with
  | nop => exact hself
  | crcInit | crcByte _ | crcBuf => exact hself.write (writes_setCrcacc _)
  | crcFinal | chLen _ _ => exact hself.write (writes_setRes _)
  | tagLoad _ | tagParse _ _ _ | chTag _ _ => exact hself.write (writes_setTag _)
  | chBuild _ => exact hself.write (writes_setWork _)
  | chCrc c hw => exact (keptBut_fillWork hw).mono.write (writes_setRes _)
  | chSer c hw _ => exact (keptBut_fillWork hw).mono.write (writes_setObuf _)
  | chParse _ _ => exact (hself.write (writes_setWork _)).write (writes_setCur _)
  | chData _ _ => exact hself.write (writes_setObuf _)
  | ctParse _ _ => exact (hself.write (writes_setStore _)).write (writes_setCur _)
  | ctAppend _ _ _ _ => exact (hself.write (writes_setStore _)).write (writes_setWork _)
  | ctFind _ _ _ => exact (hself.write (writes_setMatch _ _)).write (writes_setWork _)
  | ctFindAbsent _ _ => exact hself.write (writes_setMatch _ _)
  | ctRemove _ _ _ =>
    exact ((hself.write (writes_setWork _)).write (writes_setStore _)).write
      (writes_setMatch _ _)
  | ctSer _ => exact (keptBut_fillStore s).mono.write (writes_setObuf _)

/-- A command that fails wrote what its row lists (10_state.md R43, "writes on failure"). -/
theorem FailsIn.keptBut {i : Instr} (h : FailsIn s i u) : KeptBut (writesOnFailure i) s u := by
  have hself : KeptBut (writesOnFailure i) s s := .refl _ s
  cases h with
  | plain _ => exact hself
  | parser c hi _ => rcases hi with rfl | rfl <;> exact hself.write (writes_setCur c)
  | absent k hi _ => subst hi; exact hself.write (writes_setMatch _ _)

/-- Settles O49: a command completed or failed, and either way it wrote what the row lists and then the status group.
-/
theorem commandsWriteOnlyWhatIsListed : Obligations.CommandsWriteOnlyWhatIsListed := by
  unfold Obligations.CommandsWriteOnlyWhatIsListed
  intro i s t e h he
  rcases exec_next h with ⟨u, hc, rfl⟩ | ⟨err, u, hf, rfl⟩
  · exact (hc.keptBut.write (writes_setStatus _ _ _) (List.nil_subset _)) e he
  · rw [State.setStatus_err, if_neg (errCode_ne_zero err)] at he
    exact (hf.keptBut.write (writes_setStatus _ _ _) (List.nil_subset _)) e he

/-! ### What a command reads -/

/-- No serialization, footprint or search looks at a hidden cache (10_state.md R39). -/
@[simp] theorem storeFootprint_map_eraseCache (cs : List Chunk) :
    storeFootprint (cs.map eraseCache) = storeFootprint cs := by
  rw [storeFootprint, List.map_map]; rfl

theorem map_chunkCached_map_eraseCache (cs : List Chunk) :
    (cs.map eraseCache).map chunkCached = cs.map chunkCached := by
  rw [List.map_map]; rfl

@[simp] theorem cser_map_eraseCache (p : Params) (cs : List Chunk) : cser p (cs.map eraseCache) = cser p cs := by
  rw [cser, List.flatMap_map]; rfl

@[simp] theorem firstMatch_map_eraseCache (cs : List Chunk) (k : Tag) :
    firstMatch (cs.map eraseCache) k = firstMatch cs k := by
  rw [firstMatch, List.findIdx?_map]; rfl

/-- Each element is the same in `u` and `u'`, or is as it was in `s` and in `s'`. -/
def SameOrKept (s s' u u' : State) : Prop :=
  ∀ e : Element, Same e u u' ∨ (Same e s u ∧ Same e s' u')

theorem SameOrKept.refl (s s' : State) : SameOrKept s s' s s' :=
  fun e => .inr ⟨Same.refl e s, Same.refl e s'⟩

theorem SameOrKept.write {L : List Element} {f : State → State} (h : SameOrKept s s' u u') (hf : Writes L f) :
    SameOrKept s s' (f u) (f u') := by
  intro e
  by_cases he : e ∈ L
  · exact .inl (hf.sets u u' e he)
  · have hu := hf.keeps u e he
    have hu' := hf.keeps u' e he
    rcases h e with hsame | ⟨hk, hk'⟩
    · exact .inl (hu.symm.trans (hsame.trans hu'))
    · exact .inr ⟨hk.trans hu, hk'.trans hu'⟩

/-- Two runs of a command end alike: both complete or both raise the same error, and no element that they leave
different was written. -/
inductive EndAlike (s s' : State) : Result → Result → Prop where
  | completes {u u' : State} (h : SameOrKept s s' u u') : EndAlike s s' (complete u) (complete u')
  | raises {u u' : State} (e : Err) (h : SameOrKept s s' u u') : EndAlike s s' (raise e u) (raise e u')

/-- The status group is the same in both. -/
abbrev SameStatus (t t' : State) : Prop :=
  t'.err = t.err ∧ t'.einfo0 = t.einfo0 ∧ t'.einfo1 = t.einfo1

theorem EndAlike.next (h : EndAlike s s' (.next t) (.next t')) : SameStatus t t' ∧ SameOrKept s s' t t' := by
  generalize hr : Host.Outcome.next t = r at h
  generalize hr' : Host.Outcome.next t' = r' at h
  cases h with
  | completes h =>
    rw [complete_next hr.symm, complete_next hr'.symm]
    exact ⟨⟨rfl, rfl, rfl⟩, h.write (writes_setStatus _ _ _)⟩
  | raises e h =>
    rw [raise_next hr.symm, raise_next hr'.symm]
    exact ⟨⟨rfl, rfl, rfl⟩, h.write (writes_setStatus _ _ _)⟩

/-- Equal bytes at every offset make equal buffers (20_memory.md R60). -/
theorem Same.ibuf_eq (h : Same .input s s') : s'.ibuf = s.ibuf :=
  List.ext_getElem? h

/-- A chunk is what R34 compares and its cache. -/
theorem chunk_eq_of_eraseCache {c c' : Chunk} (h : eraseCache c' = eraseCache c) (hck : c'.ck = c.ck) : c' = c := by
  obtain ⟨tag, payload, ck⟩ := c
  obtain ⟨tag', payload', ck'⟩ := c'
  cases hck
  cases h
  rfl

theorem Same.w_eq (h : Same .work s s') (hck : Same .workCache s s') : s'.w = s.w := by
  simp only [Same] at h hck
  cases hw : s.w <;> cases hw' : s'.w <;> simp_all
  exact chunk_eq_of_eraseCache h hck

theorem store_eq_of_map {cs cs' : List Chunk} (h : cs'.map eraseCache = cs.map eraseCache)
    (hck : cs'.map Chunk.ck = cs.map Chunk.ck) : cs' = cs := by
  induction cs generalizing cs' with
  | nil => simpa using h
  | cons c cs ih =>
    cases cs' with
    | nil => cases h
    | cons c' cs' =>
      obtain ⟨hc, hcs⟩ := List.cons.inj h
      obtain ⟨hcck, hcsck⟩ := List.cons.inj hck
      rw [chunk_eq_of_eraseCache hc hcck, ih hcs hcsck]

/-- A command that needs `W` ends alike in two states whose `W` is the same but for the cache, when its body does. -/
theorem endAlike_withChunk {body body' : Chunk → Result} (hw : Same .work s s')
    (hb : ∀ c ck, EndAlike s s' (body c) (body' { c with ck := ck })) :
    EndAlike s s' (withChunk s body) (withChunk s' body') := by
  simp only [Same] at hw
  cases hs : s.w with
  | none =>
    have hs' : s'.w = none := by simpa [hs] using hw
    rw [withChunk_of_none hs, withChunk_of_none hs']
    exact .raises _ (.refl s s')
  | some c =>
    rw [hs, Option.map_some, Option.map_eq_some_iff] at hw
    obtain ⟨c', hs', hc⟩ := hw
    have hc' : c' = { c with ck := c'.ck } := chunk_eq_of_eraseCache hc rfl
    rw [withChunk_of_some hs, withChunk_of_some hs', hc']
    exact hb c c'.ck

/-- Two states that agree on what the row of a command lists as read end alike under it (10_state.md R43, "reads"). -/
theorem exec_endAlike {i : Instr} (hcfg : s'.cfg = s.cfg) (hr : ∀ e ∈ readsOf i, Same e s s') :
    EndAlike s s' (exec i s) (exec i s') := by
  have hself := SameOrKept.refl s s'
  cases i with
  | nop => exact .completes hself
  | crcInit => exact .completes (hself.write (writes_setCrcacc _))
  | crcByte b =>
    have hacc : s'.crcacc = s.crcacc := hr .crcacc (by simp [readsOf])
    rw [exec, exec, execCrcByte, execCrcByte, hacc]
    exact .completes (hself.write (writes_setCrcacc _))
  | crcBuf =>
    have hacc : s'.crcacc = s.crcacc := hr .crcacc (by simp [readsOf])
    have hin := (hr .input (by simp [readsOf])).ibuf_eq
    rw [exec, exec, execCrcBuf, execCrcBuf, hacc, hin]
    exact .completes (hself.write (writes_setCrcacc _))
  | crcFinal =>
    have hacc : s'.crcacc = s.crcacc := hr .crcacc (by simp [readsOf])
    rw [exec, exec, execCrcFinal, execCrcFinal, hacc]
    exact .completes (hself.write (writes_setRes _))
  | tagLoad k => exact .completes (hself.write (writes_setTag _))
  | tagParse =>
    have hin := (hr .input (by simp [readsOf])).ibuf_eq
    rw [exec, exec, execTagParse, execTagParse, hin]
    split
    · exact .raises _ hself
    · split
      · exact .completes (hself.write (writes_setTag _))
      · exact .raises _ hself
  | chBuild =>
    have hin := (hr .input (by simp [readsOf])).ibuf_eq
    obtain ⟨ht, htv⟩ : s'.t = s.t ∧ s'.tv = s.tv := hr .tag (by simp [readsOf])
    rw [exec, exec, execChBuild, execChBuild, withTag, withTag, ht, htv, hin]
    split
    · exact .completes (hself.write (writes_setWork _))
    · exact .raises _ hself
  | chLen =>
    exact endAlike_withChunk (hr .work (by simp [readsOf])) fun _ _ =>
      .completes (hself.write (writes_setRes _))
  | chCrc =>
    exact endAlike_withChunk (hr .work (by simp [readsOf])) fun _ _ =>
      .completes ((hself.write (writes_setWork _)).write (writes_setRes _))
  | chSer =>
    refine endAlike_withChunk (hr .work (by simp [readsOf])) fun c ck => ?_
    rw [hcfg]
    dsimp only
    split
    · exact .raises _ hself
    · exact .completes ((hself.write (writes_setWork _)).write (writes_setObuf _))
  | chParse =>
    have hin := (hr .input (by simp [readsOf])).ibuf_eq
    rw [exec, exec, execChParse, execChParse, hin]
    split
    · exact .raises _ (hself.write (writes_setCur _))
    · exact .completes ((hself.write (writes_setWork _)).write (writes_setCur _))
  | chData =>
    exact endAlike_withChunk (hr .work (by simp [readsOf])) fun _ _ =>
      .completes (hself.write (writes_setObuf _))
  | chTag =>
    exact endAlike_withChunk (hr .work (by simp [readsOf])) fun _ _ =>
      .completes (hself.write (writes_setTag _))
  | ctParse =>
    have hin := (hr .input (by simp [readsOf])).ibuf_eq
    rw [exec, exec, execCtParse, execCtParse, hcfg, hin]
    split
    · exact .raises _ (hself.write (writes_setCur _))
    · exact .completes ((hself.write (writes_setStore _)).write (writes_setCur _))
  | ctAppend =>
    have hw : s'.w = s.w := (hr .work (by simp [readsOf])).w_eq (hr .workCache (by simp [readsOf]))
    have hcs : s'.cs = s.cs := store_eq_of_map (hr .store (by simp [readsOf])) (hr .storeCaches (by simp [readsOf]))
    rw [exec, exec, execCtAppend, execCtAppend, withChunk, withChunk, hw, hcs, hcfg]
    split
    · split
      · exact .raises _ hself
      · split
        · exact .raises _ hself
        · exact .completes ((hself.write (writes_setStore _)).write (writes_setWork _))
    · exact .raises _ hself
  | ctFind k =>
    have hcs : s'.cs = s.cs := store_eq_of_map (hr .store (by simp [readsOf])) (hr .storeCaches (by simp [readsOf]))
    rw [exec, exec, execCtFind, execCtFind, hcs]
    split
    · exact .completes ((hself.write (writes_setMatch _ _)).write (writes_setWork _))
    · exact .completes (hself.write (writes_setMatch _ _))
  | ctRemove k =>
    have hcs : s'.cs = s.cs := store_eq_of_map (hr .store (by simp [readsOf])) (hr .storeCaches (by simp [readsOf]))
    rw [exec, exec, execCtRemove, execCtRemove, hcs]
    split
    · exact .completes (((hself.write (writes_setWork _)).write (writes_setStore _)).write (writes_setMatch _ _))
    · exact .raises _ (hself.write (writes_setMatch _ _))
  | ctSer =>
    have hcs : s'.cs.map eraseCache = s.cs.map eraseCache := hr .store (by simp [readsOf])
    have hfoot : storeFootprint s'.cs = storeFootprint s.cs := by
      rw [← storeFootprint_map_eraseCache, hcs, storeFootprint_map_eraseCache]
    have hfill : s'.cs.map chunkCached = s.cs.map chunkCached := by
      rw [← map_chunkCached_map_eraseCache, hcs, map_chunkCached_map_eraseCache]
    have hser : cser s.cfg s'.cs = cser s.cfg s.cs := by
      rw [← cser_map_eraseCache, hcs, cser_map_eraseCache]
    rw [exec, exec, execCtSer, execCtSer, hcfg, hfoot, hfill, hser]
    split
    · exact .raises _ hself
    · exact .completes ((hself.write (writes_setStore _)).write (writes_setObuf _))

/-- Settles O50: the two runs end alike. -/
theorem commandsReadOnlyWhatIsListed : Obligations.CommandsReadOnlyWhatIsListed := by
  unfold Obligations.CommandsReadOnlyWhatIsListed
  intro i s s' t t' hcfg hr h h'
  have halike := exec_endAlike hcfg hr
  rw [h, h'] at halike
  exact halike.next

end Sys2Proof.Machine
end

section
/-! PROOFS. The invariant of every reachable state (10_state.md R30 to R39). It holds at reset, each writer keeps it
under a condition on what it writes, and each command writes only what meets the condition; the chunks that a command
leaves are those it found, their caches filled, or a chunk made of IBUF. -/

namespace Sys2Proof.Machine

variable {s t u : State}

/-! ### Chunks -/

/-- A chunk that a parser or CH.BUILD makes of the input: its payload is part of it, its cache is true. -/
abbrev MadeOf (l : List Byte) (c : Chunk) : Prop :=
  c.payload.length ≤ l.length ∧ CacheTrue c

theorem memRead_length_le (buf : List Byte) (a n : Nat) : (memRead buf a n).length ≤ buf.length := by
  rw [memRead, List.length_take, List.length_drop]
  omega

theorem frameCheck_ok_madeOf {f : List Byte} {c : Chunk} (h : frameCheck f = .ok c) : MadeOf f c := by
  obtain ⟨-, -, hpay, hck, -⟩ := frameCheck_ok h
  exact ⟨hpay ▸ memRead_length_le f 8 _, .inr hck⟩

theorem chunkParse_ok_madeOf {l : List Byte} {c : Chunk} (h : chunkParse l = .ok c) : MadeOf l c := by
  rcases chunkParse_cases l with ⟨-, h'⟩ | ⟨-, -, h'⟩ | ⟨-, h'⟩ <;> rw [h'] at h
  · cases h
  · cases h
  · exact frameCheck_ok_madeOf h

theorem parseFrames_ok_madeOf {turns : Nat} {rest : List Byte} {c : Nat} {cs : List Chunk}
    (h : parseFrames turns rest c = .ok cs) : ∀ x ∈ cs, MadeOf rest x := by
  induction turns generalizing rest c cs with
  | zero => cases h; simp
  | succ turns ih =>
    rcases parseFrames_succ turns rest c with
      ⟨-, h'⟩ | ⟨-, -, h'⟩ | ⟨-, -, h'⟩ | ⟨size, -, -, ⟨_, -, h'⟩ | ⟨x, hx, ⟨_, -, h'⟩ | ⟨xs, hxs, h'⟩⟩⟩ <;>
      rw [h'] at h <;> cases h
    · simp
    · obtain ⟨hpay, hck⟩ := frameCheck_ok_madeOf hx
      refine List.forall_mem_cons.mpr ⟨⟨hpay.trans (List.length_take_le' _ _), hck⟩, fun y hy => ?_⟩
      obtain ⟨hpay', hck'⟩ := ih hxs y hy
      exact ⟨hpay'.trans (by simp), hck'⟩

theorem containerParse_ok_madeOf {p : Params} {l : List Byte} {cs : List Chunk} (h : containerParse p l = .ok cs) :
    ∀ x ∈ cs, MadeOf l x := by
  rcases containerParse_cases p l with
    ⟨-, h'⟩ | ⟨-, -, ⟨_, -, h'⟩ | ⟨ds, hds, ⟨-, h'⟩ | ⟨-, -, h'⟩ | ⟨-, -, h'⟩⟩⟩ <;>
    rw [h'] at h <;> cases h
  intro x hx
  obtain ⟨hpay, hck⟩ := parseFrames_ok_madeOf hds x hx
  exact ⟨hpay.trans (by simp), hck⟩

/-- Every chunk in `W` and in `CS` has the property `P`. -/
abbrev AllChunks (P : Chunk → Prop) (s : State) : Prop :=
  (∀ c ∈ s.w, P c) ∧ (∀ c ∈ s.cs, P c)

/-- A property of chunks that filling a cache keeps, and that every chunk made of IBUF has, is kept by every command
that completes. -/
theorem Completes.allChunks {P : Chunk → Prop} {i : Instr} (h : Completes s i u) (hs : AllChunks P s)
    (hfill : ∀ c, P c → P (chunkCached c)) (hnew : ∀ c, MadeOf s.ibuf c → P c) : AllChunks P u := by
  obtain ⟨hw, hcs⟩ := hs
  have hget (i : Nat) : ∀ c ∈ s.cs[i]?, P c := fun c hc => hcs c (List.mem_of_getElem? hc)
  cases h with
  | nop | crcInit | crcByte _ | crcBuf | crcFinal | tagLoad _ | tagParse _ _ _ | chLen _ _ | chData _ _ | chTag _ _
  | ctFindAbsent _ _ => exact ⟨hw, hcs⟩
  | chBuild _ => exact ⟨fun c hc => hnew c (Option.some.inj hc ▸ ⟨le_rfl, .inl rfl⟩), hcs⟩
  | chCrc c hc | chSer c hc _ => exact ⟨fun d hd => Option.some.inj hd ▸ hfill c (hw c hc), hcs⟩
  | chParse c hc => exact ⟨fun d hd => Option.some.inj hd ▸ hnew c (chunkParse_ok_madeOf hc), hcs⟩
  | ctParse cs hp => exact ⟨hw, fun c hc => hnew c (containerParse_ok_madeOf hp c hc)⟩
  | ctAppend c hc _ _ => exact ⟨nofun, List.forall_mem_append.mpr ⟨hcs, List.forall_mem_singleton.mpr (hw c hc)⟩⟩
  | ctFind k i _ => exact ⟨hget i, hcs⟩
  | ctRemove k i _ =>
    exact ⟨hget i, List.forall_mem_append.mpr
      ⟨fun c hc => hcs c (List.mem_of_mem_take hc), fun c hc => hcs c (List.mem_of_mem_drop hc)⟩⟩
  | ctSer _ => exact ⟨hw, List.forall_mem_map.mpr fun c hc => hfill c (hcs c hc)⟩

theorem FailsIn.sameChunks {i : Instr} (h : FailsIn s i u) : u.w = s.w ∧ u.cs = s.cs := by
  cases h <;> exact ⟨rfl, rfl⟩

/-- Settles O54: a filled cache is the chunk's own checksum, and so is the cache of a chunk made of IBUF. -/
theorem cachesStayTrue : Obligations.CachesStayTrue := by
  unfold Obligations.CachesStayTrue
  intro i s t hw hcs h
  rcases exec_next h with ⟨u, hc, rfl⟩ | ⟨e, u, hf, rfl⟩
  · exact hc.allChunks ⟨hw, hcs⟩ (fun _ _ => .inr rfl) fun _ hmade => hmade.2
  · obtain ⟨hw', hcs'⟩ := hf.sameChunks
    rw [State.setStatus_w, State.setStatus_cs, hw', hcs']
    exact ⟨hw, hcs⟩

/-! ### The invariant at reset -/

/-- Right after reset the buffers and the store are empty and the cursors are 0 (10_state.md R45). -/
theorem resetWith_inv {p : Params} (hp : p.wf = true) : (State.resetWith p).Inv := by
  simp [State.Inv, StoreFits, ErrCodeLegal, CursorsFit, State.resetWith, hp]

/-- Settles O51: the default parameters are legal. -/
theorem resetMeetsTheInvariant : Obligations.ResetMeetsTheInvariant := by
  unfold Obligations.ResetMeetsTheInvariant
  exact ⟨resetWith_inv (by decide), fun _ => resetWith_inv⟩

/-! ### The invariant along a step -/

/-- A command that completes leaves buffers within their capacity (10_state.md R37, R38). -/
theorem Completes.memory_wf {i : Instr} (h : Completes s i u) (hs : s.Inv) : Memory.wf u := by
  obtain ⟨-, ⟨hin, hout⟩, hw, -⟩ := hs
  cases h with
  | chSer c _ hcap => exact ⟨hin, hcap⟩
  | chData c hc => exact ⟨hin, (hw c hc).1⟩
  | ctSer hcap => exact ⟨hin, hcap⟩
  | _ => exact ⟨hin, hout⟩

/-- A command that completes leaves cursors that exist (10_state.md R30, R31). -/
theorem Completes.cursorsFit {i : Instr} (h : Completes s i u) (hs : s.Inv) : CursorsFit u := by
  obtain ⟨-, ⟨hin, -⟩, -, -, ⟨hn, -⟩, -, hcur, hidx⟩ := hs
  cases h with
  | chParse _ _ | ctParse _ _ => exact ⟨(toNat_reg32_le _).trans hin, hidx⟩
  | ctFind _ i hi | ctRemove _ i hi => exact ⟨hcur, (toNat_reg32_le _).trans ((firstMatch_lt hi).le.trans hn)⟩
  | ctFindAbsent _ _ => exact ⟨hcur, (toNat_reg32_le _).trans hn⟩
  | _ => exact ⟨hcur, hidx⟩

/-- A command that fails leaves cursors that exist. -/
theorem FailsIn.cursorsFit {i : Instr} (h : FailsIn s i u) (hs : s.Inv) : CursorsFit u := by
  obtain ⟨-, ⟨hin, -⟩, -, -, ⟨hn, -⟩, -, hcur, hidx⟩ := hs
  cases h with
  | plain _ => exact ⟨hcur, hidx⟩
  | parser c _ hc => exact ⟨(toNat_reg32_le c).trans (hc.trans hin), hidx⟩
  | absent _ _ _ => exact ⟨hcur, (toNat_reg32_le _).trans hn⟩

/-- The code that a command leaves is legal: its row of 60_exceptions.md R219 lists no code past 10 and no 4. -/
theorem exec_errCodeLegal {i : Instr} (h : exec i s = .next t) : ErrCodeLegal t := by
  have h4 := trailingBytesNeverRaised.1 i s t h
  rcases exec_next h with ⟨u, -, rfl⟩ | ⟨e, u, -, rfl⟩
  · exact ⟨by simp, h4⟩
  · exact ⟨(errCode_range e).2, h4⟩

/-- Every command keeps the invariant. -/
theorem exec_inv {i : Instr} (hs : s.Inv) (h : exec i s = .next t) : t.Inv := by
  have herr := exec_errCodeLegal h
  obtain ⟨hcfg, hmem, hw, hcs, hfits, -, -⟩ := id hs
  have hfits' := storeCapacityIsKept i s t hfits h
  rcases exec_next h with ⟨u, hc, rfl⟩ | ⟨e, u, hf, rfl⟩
  · obtain ⟨hcfg', -⟩ := hc.sameInput
    obtain ⟨hin, -⟩ := hmem
    have hchunks := hc.allChunks (P := ChunkOk s.cfg) ⟨hw, hcs⟩ (fun c hok => ⟨hok.1, .inr rfl⟩)
      fun c hmade => ⟨hmade.1.trans hin, hmade.2⟩
    rw [← hcfg'] at hcfg hchunks
    exact ⟨hcfg, hc.memory_wf hs, hchunks.1, hchunks.2, hfits', herr, hc.cursorsFit hs⟩
  · have hcur := hf.cursorsFit hs
    cases hf <;> exact ⟨hcfg, hmem, hw, hcs, hfits', herr, hcur⟩

/-- Every host action keeps the invariant (10_state.md R44). -/
theorem hostAct_inv {a : HostAction} (hs : s.Inv) (h : hostAct a s = .next t) : t.Inv := by
  cases a with
  | reset => cases h; exact resetWith_inv hs.1
  | load bytes =>
    obtain ⟨hlen, rfl⟩ := hostLoad_next h
    obtain ⟨hcfg, ⟨-, hout⟩, hrest⟩ := hs
    exact ⟨hcfg, ⟨hlen, hout⟩, hrest⟩
  | cmd cw =>
    rcases hostCmd_cases cw s with ⟨i, -, h'⟩ | ⟨e, -, h'⟩ <;> rw [hostAct, h'] at h
    · exact exec_inv hs h
    · rw [raise_next h]
      obtain ⟨hcfg, hmem, hw, hcs, hfits, -, hcur⟩ := hs
      exact ⟨hcfg, hmem, hw, hcs, hfits, ⟨by simp [errCode], by simp [errCode]⟩, hcur⟩
  | read n => rw [hostAct, hostRead_eq] at h; cases h; exact hs
  | readOut => cases h; exact hs

/-- Settles O52: an idle step changes nothing, and every host action keeps the invariant. -/
theorem stepKeepsTheInvariant : Obligations.StepKeepsTheInvariant := by
  unfold Obligations.StepKeepsTheInvariant
  intro s t hs h
  rcases step_cases s with ⟨-, h'⟩ | ⟨a, rest, -, h'⟩ <;> rw [h'] at h
  · cases h; exact hs
  · exact hostAct_inv (s := s.setPending rest) hs h

end Sys2Proof.Machine
end

section
/-! PROOFS. What cannot be seen (10_state.md R22, R39). A view of the state that hides a part of it which no read, no
host action and no command looks at loses nothing: the hidden caches are one such part, the content of `T` while `TV =
0` is another. That a command does not look there is read off its row of R43. -/

namespace Sys2Proof.Machine

variable {s t t' : State}

/-! ### Views that hide a part -/

/-- The view `f` hides a part of the state that nothing looks at: it goes past the writers that the host's actions
use, it leaves what the host reads, and a command ends the same under it. -/
structure Hides (f : State → State) : Prop where
  idem : ∀ s, f (f s) = f s
  setStatus : ∀ s code i0 i1, f (s.setStatus code i0 i1) = (f s).setStatus code i0 i1
  setIbuf : ∀ s l, f (s.setIbuf l) = (f s).setIbuf l
  setPending : ∀ s l, f (s.setPending l) = (f s).setPending l
  observe : ∀ s o, f (s.observe o) = (f s).observe o
  useFreeRead : ∀ s, f s.useFreeRead = (f s).useFreeRead
  reset : ∀ s, hostReset (f s) = hostReset s
  cfg : ∀ s, (f s).cfg = s.cfg
  obuf : ∀ s, (f s).obuf = s.obuf
  pending : ∀ s, (f s).pending = s.pending
  readIsFree : ∀ n s, readIsFree n (f s) = readIsFree n s
  registerValue : ∀ n s, registerValue n (f s) = registerValue n s
  exec : ∀ i s, mapNext f (exec i s) = mapNext f (exec i (f s))

theorem Hides.hostAct {f : State → State} (hf : Hides f) (a : HostAction) (s : State) :
    mapNext f (hostAct a s) = mapNext f (hostAct a (f s)) := by
  cases a with
  | reset => rw [Machine.hostAct, Machine.hostAct, hf.reset]
  | load bytes =>
    rw [Machine.hostAct, Machine.hostAct, hostLoad, hostLoad, hf.cfg]
    split
    · rw [mapNext, mapNext, hf.setIbuf, hf.setIbuf, hf.idem]
    · rfl
  | cmd cw =>
    rw [Machine.hostAct, Machine.hostAct, hostCmd, hostCmd]
    split
    · exact hf.exec _ s
    · rw [mapNext_raise, mapNext_raise, hf.setStatus, hf.setStatus, hf.idem]
  | read n =>
    rw [Machine.hostAct, Machine.hostAct, hostRead, hostRead, hf.readIsFree, hf.registerValue, mapNext, mapNext,
      hf.observe, hf.observe]
    split
    · rw [hf.useFreeRead, hf.useFreeRead, hf.idem]
    · rw [hf.idem]
  | readOut =>
    rw [Machine.hostAct, Machine.hostAct, hostReadOut, hostReadOut, hf.obuf, mapNext, mapNext, hf.observe, hf.observe,
      hf.idem]

theorem Hides.step {f : State → State} (hf : Hides f) (s : State) : mapNext f (step s) = mapNext f (step (f s)) := by
  rcases step_cases s with ⟨hp, h⟩ | ⟨a, rest, hp, h⟩
  · have hidle : Machine.step (f s) = .next (f s) := by rw [Machine.step, hf.pending, hp]
    rw [h, hidle, mapNext, mapNext, hf.idem]
  · have hact : Machine.step (f s) = Machine.hostAct a ((f s).setPending rest) :=
      step_of_pending ((hf.pending s).trans hp)
    rw [h, hact, ← hf.setPending]
    exact hf.hostAct a _

/-- States that are the same in every element, in the status group and in what no command writes are equal. -/
theorem State.eq_of_same (hin : SameInput t t') (hst : SameStatus t t') (h : ∀ e, Same e t t') : t' = t := by
  obtain ⟨hcfg, hibuf, hpending, hobserved, hfree⟩ := hin
  obtain ⟨herr, hinfo0, hinfo1⟩ := hst
  obtain ⟨htag, htv⟩ : t'.t = t.t ∧ t'.tv = t.tv := h .tag
  have hres : t'.res = t.res := h .res
  have hacc : t'.crcacc = t.crcacc := h .crcacc
  have hfound : t'.found = t.found := h .found
  have hidx : t'.idx = t.idx := h .idx
  have hcur : t'.cur = t.cur := h .cur
  have hw := (h .work).w_eq (h .workCache)
  have hcs : t'.cs = t.cs := store_eq_of_map (h .store) (h .storeCaches)
  have hobuf : t'.obuf = t.obuf := List.ext_getElem? (h .output)
  cases t
  cases t'
  simp_all

/-- A view ends a command the same from `s` and from `s'` when the two ends always look the same under it. -/
theorem mapNext_exec_eq {f : State → State} {s s' : State} {i : Instr} (hin : SameInput s s')
    (hr : ∀ e ∈ readsOf i, Same e s s')
    (h : ∀ t t', SameInput t t' → SameStatus t t' → SameOrKept s s' t t' → f t = f t') :
    mapNext f (exec i s) = mapNext f (exec i s') := by
  obtain ⟨t, ht, hst⟩ := exec_answers i s
  obtain ⟨t', ht', hst'⟩ := exec_answers i s'
  have hcfg := hin.1
  have halike := exec_endAlike hcfg hr
  rw [ht, ht'] at halike ⊢
  obtain ⟨hstatus, hsame⟩ := halike.next
  refine congrArg Host.Outcome.next (h t t' ?_ hstatus hsame)
  obtain ⟨h1, h2, h3, h4, h5⟩ := hin
  obtain ⟨a1, a2, a3, a4, a5⟩ := hst
  obtain ⟨b1, b2, b3, b4, b5⟩ := hst'
  exact ⟨by rw [b1, h1, a1], by rw [b2, h2, a2], by rw [b3, h3, a3], by rw [b4, h4, a4], by rw [b5, h5, a5]⟩

/-! ### The hidden caches -/

@[simp] theorem eraseCache_eraseCache (c : Chunk) : eraseCache (eraseCache c) = eraseCache c := rfl

@[simp] theorem eraseCache_comp_eraseCache : eraseCache ∘ eraseCache = eraseCache := rfl

/-- Only the caches count apart in the two views (10_state.md R34, R43). -/
theorem same_eraseCaches {e : Element} (hw : e ≠ .workCache) (hcs : e ≠ .storeCaches) (s : State) :
    Same e s (eraseCaches s) := by
  cases e <;> simp_all [Same, eraseCaches]

/-- States that are the same but for the caches look the same without them. -/
theorem eraseCaches_eq (hin : SameInput t t') (hst : SameStatus t t')
    (h : ∀ e, e ≠ .workCache → e ≠ .storeCaches → Same e t t') : eraseCaches t = eraseCaches t' := by
  refine (State.eq_of_same (t := eraseCaches t) (t' := eraseCaches t') hin hst fun e => ?_).symm
  have hw : (eraseCaches t').w = (eraseCaches t).w := h .work nofun nofun
  have hcs : (eraseCaches t').cs = (eraseCaches t).cs := h .store nofun nofun
  by_cases hwc : e = .workCache
  · subst hwc; simp only [Same, hw]
  · by_cases hsc : e = .storeCaches
    · subst hsc; simp only [Same, hcs]
    · exact (same_eraseCaches hwc hsc t).symm.trans ((h e hwc hsc).trans (same_eraseCaches hwc hsc t'))

section Writers

variable (s : State)

@[simp] theorem eraseCaches_w : (eraseCaches s).w = s.w.map eraseCache := rfl
@[simp] theorem eraseCaches_cs : (eraseCaches s).cs = s.cs.map eraseCache := rfl
@[simp] theorem eraseCaches_cfg : (eraseCaches s).cfg = s.cfg := rfl

@[simp] theorem eraseCaches_setStatus (code : Byte) (i0 i1 : Word) :
    eraseCaches (s.setStatus code i0 i1) = (eraseCaches s).setStatus code i0 i1 := rfl

@[simp] theorem eraseCaches_setMatch (f : Bool) (n : Nat) :
    eraseCaches (s.setMatch f n) = (eraseCaches s).setMatch f n := rfl

@[simp] theorem eraseCaches_setWork (c : Option Chunk) :
    eraseCaches (s.setWork c) = (eraseCaches s).setWork (c.map eraseCache) := rfl

@[simp] theorem eraseCaches_setStore (cs : List Chunk) :
    eraseCaches (s.setStore cs) = (eraseCaches s).setStore (cs.map eraseCache) := rfl

@[simp] theorem eraseCaches_eraseCaches : eraseCaches (eraseCaches s) = eraseCaches s := by
  simp [eraseCaches]

end Writers

/-- CT.APPEND hands the chunk of `W` on with its cache, and looks at neither (43_container.md R184). -/
theorem exec_ctAppend_eraseCaches (s : State) :
    mapNext eraseCaches (exec .ctAppend s) = mapNext eraseCaches (exec .ctAppend (eraseCaches s)) := by
  rw [exec, exec, execCtAppend, execCtAppend]
  cases hw : s.w with
  | none => rw [withChunk_of_none hw, withChunk_of_none (by simp [hw])]; simp
  | some c =>
    have hfoot : chunkFootprint (eraseCache c) = chunkFootprint c := rfl
    have hw' : (eraseCaches s).w = some (eraseCache c) := by simp [hw]
    rw [withChunk_of_some hw, withChunk_of_some hw', hfoot, eraseCaches_cfg, eraseCaches_cs, List.length_map,
      storeFootprint_map_eraseCache]
    split
    · simp
    · split <;> simp

/-- CT.FIND looks at tags alone (43_container.md R185, R186). -/
theorem exec_ctFind_eraseCaches (k : Tag) (s : State) :
    mapNext eraseCaches (exec (.ctFind k) s) = mapNext eraseCaches (exec (.ctFind k) (eraseCaches s)) := by
  rw [exec, exec, execCtFind, execCtFind, eraseCaches_cs, firstMatch_map_eraseCache]
  split <;> simp [Option.map_map]

/-- CT.REMOVE looks at tags alone (43_container.md R185, R188). -/
theorem exec_ctRemove_eraseCaches (k : Tag) (s : State) :
    mapNext eraseCaches (exec (.ctRemove k) s) = mapNext eraseCaches (exec (.ctRemove k) (eraseCaches s)) := by
  rw [exec, exec, execCtRemove, execCtRemove, eraseCaches_cs, firstMatch_map_eraseCache]
  split <;> simp [Option.map_map]

/-- No command looks at a cache: only CT.APPEND, CT.FIND and CT.REMOVE list one as read, to hand it on (10_state.md
R43). -/
theorem exec_eraseCaches (i : Instr) (s : State) :
    mapNext eraseCaches (exec i s) = mapNext eraseCaches (exec i (eraseCaches s)) := by
  by_cases hr : .storeCaches ∈ readsOf i
  · cases i with
    | ctAppend => exact exec_ctAppend_eraseCaches s
    | ctFind k => exact exec_ctFind_eraseCaches k s
    | ctRemove k => exact exec_ctRemove_eraseCaches k s
    | _ => simp [readsOf] at hr
  · have hcaches : ∀ e ∈ readsOf i, e ≠ .workCache ∧ e ≠ .storeCaches := by
      cases i <;> simp [readsOf] at hr ⊢
    refine mapNext_exec_eq ⟨rfl, rfl, rfl, rfl, rfl⟩
      (fun e he => same_eraseCaches (hcaches e he).1 (hcaches e he).2 s) fun t t' hin hst h =>
      eraseCaches_eq hin hst fun e hw hcs => ?_
    rcases h e with hsame | ⟨hk, hk'⟩
    · exact hsame
    · exact hk.symm.trans ((same_eraseCaches hw hcs s).trans hk')

theorem registerValue_eraseCaches (n : Nat) (s : State) : registerValue n (eraseCaches s) = registerValue n s := by
  have hstatus : statusView (eraseCaches s) = statusView s := by simp [statusView, eraseCaches]
  have hcs : (eraseCaches s).cs.length = s.cs.length := by simp
  simp only [registerValue, hstatus, hcs]
  rfl

theorem hides_eraseCaches : Hides eraseCaches where
  idem := eraseCaches_eraseCaches
  setStatus := eraseCaches_setStatus
  setIbuf _ _ := rfl
  setPending _ _ := rfl
  observe _ _ := rfl
  useFreeRead _ := rfl
  reset _ := rfl
  cfg _ := rfl
  obuf _ := rfl
  pending _ := rfl
  readIsFree _ _ := rfl
  registerValue := registerValue_eraseCaches
  exec := exec_eraseCaches

/-- Settles O55: emptying the caches hides a part of the state that nothing looks at. -/
theorem cachesAreUnobservable : Obligations.CachesAreUnobservable := by
  unfold Obligations.CachesAreUnobservable
  exact fun s => ⟨fun n => registerValue_eraseCaches n s, rfl, hides_eraseCaches.step s⟩

/-! ### The content of `T` while `TV = 0` -/

theorem eraseUnsetTag_of_valid (h : s.tv = true) : eraseUnsetTag s = s := by
  simp only [eraseUnsetTag, if_pos h]

/-- Only `T` differs in the two views. -/
theorem same_eraseUnsetTag {e : Element} (he : e ≠ .tag) (s : State) : Same e s (eraseUnsetTag s) := by
  cases e <;> simp_all [Same, eraseUnsetTag]

/-- States that are the same but for `T`, and have the same `T` unless neither has a valid one, look the same. -/
theorem eraseUnsetTag_eq (hin : SameInput t t') (hst : SameStatus t t') (h : ∀ e, e ≠ .tag → Same e t t')
    (htag : Same .tag t t' ∨ (t.tv = false ∧ t'.tv = false)) : eraseUnsetTag t = eraseUnsetTag t' := by
  refine (State.eq_of_same (t := eraseUnsetTag t) (t' := eraseUnsetTag t') hin hst fun e => ?_).symm
  by_cases he : e = .tag
  · subst he
    rcases htag with ⟨ht, htv⟩ | ⟨htv, htv'⟩
    · simp [Same, eraseUnsetTag, ht, htv]
    · simp [Same, eraseUnsetTag, htv, htv']
  · exact (same_eraseUnsetTag he t).symm.trans ((h e he).trans (same_eraseUnsetTag he t'))

/-- No command looks at `T` while `TV = 0`: only CH.BUILD lists it as read, and it tests `TV` first (42_chunk.md
R160). -/
theorem exec_eraseUnsetTag (i : Instr) (s : State) :
    mapNext eraseUnsetTag (exec i s) = mapNext eraseUnsetTag (exec i (eraseUnsetTag s)) := by
  cases htv : s.tv with
  | true => rw [eraseUnsetTag_of_valid htv]
  | false =>
    by_cases hr : .tag ∈ readsOf i
    · cases i with
      | chBuild =>
        rw [exec, exec, execChBuild, execChBuild, withTag_of_not_valid htv,
          withTag_of_not_valid (s := eraseUnsetTag s) htv]
        simp [eraseUnsetTag, State.setStatus, htv]
      | _ => simp [readsOf] at hr
    · refine mapNext_exec_eq ⟨rfl, rfl, rfl, rfl, rfl⟩
        (fun e he => same_eraseUnsetTag (fun h => hr (h ▸ he)) s) fun t t' hin hst h =>
        eraseUnsetTag_eq hin hst (fun e he => ?_) ?_
      · rcases h e with hsame | ⟨hk, hk'⟩
        · exact hsame
        · exact hk.symm.trans ((same_eraseUnsetTag he s).trans hk')
      · exact (h .tag).imp id fun ⟨hk, hk'⟩ => ⟨hk.2.trans htv, hk'.2.trans htv⟩

theorem registerValue_eraseUnsetTag (n : Nat) (s : State) : registerValue n (eraseUnsetTag s) = registerValue n s := by
  cases htv : s.tv with
  | true => rw [eraseUnsetTag_of_valid htv]
  | false =>
    unfold registerValue
    split
    -- the reads of `T` and `TFLAGS`
    case h_7 | h_8 => simp [eraseUnsetTag, htv]
    all_goals rfl

theorem eraseUnsetTag_eraseUnsetTag (s : State) : eraseUnsetTag (eraseUnsetTag s) = eraseUnsetTag s := by
  cases htv : s.tv <;> simp [eraseUnsetTag, htv]

theorem hides_eraseUnsetTag : Hides eraseUnsetTag where
  idem := eraseUnsetTag_eraseUnsetTag
  setStatus _ _ _ _ := rfl
  setIbuf _ _ := rfl
  setPending _ _ := rfl
  observe _ _ := rfl
  useFreeRead _ := rfl
  reset _ := rfl
  cfg _ := rfl
  obuf _ := rfl
  pending _ := rfl
  readIsFree _ _ := rfl
  registerValue := registerValue_eraseUnsetTag
  exec := exec_eraseUnsetTag

/-- Settles O56: fixing `T` while `TV = 0` hides a part of the state that nothing looks at. -/
theorem unsetTagIsUnobservable : Obligations.UnsetTagIsUnobservable := by
  unfold Obligations.UnsetTagIsUnobservable
  exact fun s => ⟨fun n => registerValue_eraseUnsetTag n s, hides_eraseUnsetTag.step s⟩

end Sys2Proof.Machine
end

section
/-! PROOFS. What the host reads and writes: the registers (10_state.md R28, R41), the error records (60_exceptions.md
R211, R215), the assembler lines (30_encoding.md R96), and the host's fixed sequences of actions (R97), of which
ENCODE extends a file by one frame (43_container.md R191, R192). -/

namespace Sys2Proof.Machine

variable {s t : State}

/-! ### Registers -/

/-- The bits of `STATUS`, the lowest first; bits 7:3 are 0 (10_state.md R28). -/
theorem statusView_getLsbD (s : State) (j : Nat) :
    (statusView s).getLsbD j = [s.tv, s.w.isSome, s.found].getD j false := by
  simp only [statusView, BitVec.getLsbD_append]
  match j with
  | 0 | 1 | 2 => simp
  | j + 3 => simp

theorem registerValue_of_gt {n : Nat} (hn : 13 < n) (s : State) : registerValue n s = 0 := by
  match n, hn with
  | _ + 14, _ => rfl

/-- A valid `T` reads as its four bytes, the first the most significant (10_state.md R22, R23). -/
theorem registerValue_tag_of_valid (h : s.tv = true) :
    registerValue 6 s = (unbe32 (tagBytes s.t)).setWidth 40 ∧ registerValue 7 s = (tagFlags s.t).setWidth 40 := by
  constructor
  · rw [registerValue, if_pos h]; rfl
  · rw [registerValue, if_pos h]

/-- Settles O10: each number reads its register, and the bits of the view are its three flags. -/
theorem registerNumbersRead : Obligations.RegisterNumbersRead := by
  unfold Obligations.RegisterNumbersRead
  constructor
  · intro s
    exact ⟨rfl, rfl, rfl, rfl, rfl, rfl, registerValue_tag_of_valid, registerValue_free_lt s, rfl, rfl, rfl, rfl, rfl,
      rfl, fun n hn => registerValue_of_gt hn s⟩
  · intro s
    simp only [statusView_getLsbD]
    exact ⟨rfl, Option.isSome_iff_exists, rfl, fun _ hj => List.getD_eq_default _ _ hj⟩

/-- Settles O45: raising an error writes the record of its kind. -/
theorem errorRecords : Obligations.ErrorRecords := by
  unfold Obligations.ErrorRecords
  intro s
  simp only [raise_eq]
  exact ⟨rfl, rfl, fun _ => rfl, fun _ _ => rfl, fun _ _ => rfl, rfl, fun _ => rfl, fun _ => rfl, rfl,
    rfl, rfl, rfl, rfl⟩

/-! ### Assembler lines -/

/-- Settles O60: each line is read character by character. -/
theorem assemblerReadsTheExamples : Obligations.AssemblerReadsTheExamples := by
  unfold Obligations.AssemblerReadsTheExamples
  decide +kernel

/-! ### The signature alone -/

/-- The serialization of the empty store is the signature (43_container.md R190, R195). -/
theorem cser_nil (p : Params) : cser p [] = p.sig.toList := by
  rw [cser, List.flatMap_nil, List.append_nil]

/-- Settles O34: the signature is the serialization of the empty store, which parses back. -/
theorem signatureAloneParsesEmpty : Obligations.SignatureAloneParsesEmpty := by
  unfold Obligations.SignatureAloneParsesEmpty
  intro s hin
  have hparse : containerParse s.cfg s.ibuf = .ok [] := by
    rw [hin, ← cser_nil]
    exact containerParse_cser nofun (Nat.zero_le _) (Nat.zero_le _)
  have hlen : s.ibuf.length = 8 := by rw [hin, Vector.length_toList]
  rw [exec_ctParse_of_ok hparse, hlen]
  rfl

/-! ### The host's sequences -/

/-- A sequence stops in the state that a failing command leaves (30_encoding.md R97). -/
theorem runMacro_stops {a : HostAction} (rest : List HostAction) (h : hostAct a s = .next t) (ha : isCommand a = true)
    (herr : t.err ≠ 0) : runMacro (a :: rest) s = .next t := by
  simp only [runMacro, h, ha, Bool.true_and, bne_iff_ne]
  exact if_pos herr

/-- A sequence goes on after every other action (30_encoding.md R97). -/
theorem runMacro_goes_on {a : HostAction} (rest : List HostAction) (h : hostAct a s = .next t)
    (hok : isCommand a = false ∨ t.err = 0) : runMacro (a :: rest) s = runMacro rest t := by
  simp only [runMacro, h]
  refine if_neg fun hstop => ?_
  obtain ⟨hcmd, herr⟩ := Bool.and_eq_true_iff.mp hstop
  rcases hok with hok | hok
  · rw [hok] at hcmd; cases hcmd
  · rw [hok] at herr; cases herr

/-- Settles O59: the test after each action. -/
theorem macroStopsAtTheFirstError : Obligations.MacroStopsAtTheFirstError := by
  unfold Obligations.MacroStopsAtTheFirstError
  exact fun a rest s t h => ⟨runMacro_stops rest h, runMacro_goes_on rest h⟩

/-- A load that fits, then the rest of the sequence (10_state.md R44). -/
theorem runMacro_load {bytes : List Byte} (rest : List HostAction) (h : bytes.length ≤ s.cfg.bufCap) :
    runMacro (.load bytes :: rest) s = runMacro rest { s with ibuf := bytes } :=
  runMacro_goes_on rest (if_pos h) (.inl rfl)

/-- A command that completes, then the rest of the sequence (30_encoding.md R90). -/
theorem runMacro_issue {i : Instr} (rest : List HostAction) (h : exec i s = .next t) (herr : t.err = 0) :
    runMacro (issue i :: rest) s = runMacro rest t :=
  runMacro_goes_on rest ((hostAct_issue (decode_encode i) s).trans h) (.inr herr)

/-- TAG.PARSE of the four bytes of an alphabetic tag (41_tag.md R139). -/
theorem exec_tagParse_of_alpha {k : Tag} (h : s.ibuf = tagBytes k) (hk : tagAlpha k = true) :
    exec .tagParse s = .next { s with t := k, tv := true, err := 0, einfo0 := 0, einfo1 := 0 } := by
  rw [exec_tagParse_of_tagBytes h, if_pos hk]
  rfl

/-- CH.BUILD with a valid `T` (42_chunk.md R160). -/
theorem exec_chBuild_of_valid (h : s.tv = true) :
    exec .chBuild s = .next { s with w := some ⟨s.t, s.ibuf, none⟩, err := 0, einfo0 := 0, einfo1 := 0 } :=
  (chBuildFollowsItsRule.2 s).2 h

/-- The chunk at the end of a store stands last in the serialization (43_container.md R190). -/
theorem cser_append_singleton (p : Params) (cs : List Chunk) (c : Chunk) : cser p (cs ++ [c]) = cser p cs ++ ser c := by
  simp [cser]

/-- The state that ENCODE ends in: the file's chunks `cs` in the store with the chunk of `k` and `msg` after them, and
their serialization in OBUF and with the host (30_encoding.md R97). -/
def afterEncode (s : State) (file msg : List Byte) (k : Tag) (cs : List Chunk) : State :=
  { s with
    t := k, tv := true, err := 0, einfo0 := 0, einfo1 := 0, cur := reg32 file.length, w := none
    cs := (cs ++ [(⟨k, msg, none⟩ : Chunk)]).map chunkCached
    ibuf := msg
    obuf := cser s.cfg (cs ++ [⟨k, msg, none⟩])
    observed := .output (cser s.cfg (cs ++ [⟨k, msg, none⟩])) :: s.observed }

/-- Each action of ENCODE does its part, when everything fits (30_encoding.md R97). -/
theorem runMacro_encode {file msg : List Byte} {k : Tag} {cs : List Chunk} (hfile : file.length ≤ s.cfg.bufCap)
    (hparse : containerParse s.cfg file = .ok cs) (htag : (tagBytes k).length ≤ s.cfg.bufCap)
    (hk : tagAlpha k = true) (hmsg : msg.length ≤ s.cfg.bufCap) (hn : cs.length + 1 ≤ s.cfg.maxChunks)
    (hcap : storeFootprint cs + chunkFootprint ⟨k, msg, none⟩ ≤ s.cfg.storeCap)
    (hfits : 8 + storeFootprint (cs ++ [⟨k, msg, none⟩]) ≤ s.cfg.bufCap) :
    runMacro (macroEncode file (tagBytes k) msg) s = .next (afterEncode s file msg k cs) := by
  calc runMacro (macroEncode file (tagBytes k) msg) s
    _ = _ := runMacro_load _ hfile
    _ = _ := runMacro_issue _ (exec_ctParse_of_ok hparse) rfl
    _ = _ := runMacro_load _ htag
    _ = _ := runMacro_issue _ (exec_tagParse_of_alpha rfl hk) rfl
    _ = _ := runMacro_load _ hmsg
    _ = _ := runMacro_issue _ (exec_chBuild_of_valid rfl) rfl
    _ = _ := runMacro_issue _ (exec_ctAppend_of_fits rfl hn hcap) rfl
    _ = _ := runMacro_issue _ (exec_ctSer_of_fits hfits) rfl
    _ = .next (afterEncode s file msg k cs) := rfl

/-- Settles O58: the file is the serialization of the chunks it parses to, each action finds what it needs, and the
chunk that CH.BUILD makes is serialized last. -/
theorem encodeMacroExtendsTheFile : Obligations.EncodeMacroExtendsTheFile := by
  unfold Obligations.EncodeMacroExtendsTheFile
  intro s file msg k cs hwf hparse hk hmsg hn hcap hfits
  have htag : (tagBytes k).length ≤ s.cfg.bufCap := by
    simp only [Params.wf, Bool.and_eq_true, decide_eq_true_eq] at hwf
    rw [tagBytes_length]
    omega
  have hout : cser s.cfg (cs ++ [⟨k, msg, none⟩]) = file ++ ser ⟨k, msg, none⟩ := by
    rw [cser_append_singleton, cser_of_containerParse_ok hparse]
  have hlen : 8 + storeFootprint (cs ++ [⟨k, msg, none⟩]) ≤ s.cfg.bufCap := by
    rw [← cser_length s.cfg, hout, List.length_append, ser_length]
    exact hfits
  exact ⟨_, runMacro_encode (by omega) hparse htag hk hmsg hn hcap hlen, rfl, hout, rfl⟩

end Sys2Proof.Machine
end

section
/-! PROOFS. The byte-serial machine (70_reset_and_hazards.md R253). Each phase over the bytes of its field computes
what the rules read off the field at once, so a run over one frame is the frame test (42_chunk.md R153), a run over
many is the frame loop (43_container.md R181), and the accumulator of the serializer is the checksum (42_chunk.md
R152). -/

namespace Sys2Proof.Machine

/-! ### Counting a field up byte by byte -/

/-- One more byte at the low end of a word. -/
theorem toNat_append_byte {n : Nat} (x : BitVec n) (b : Byte) : (x ++ b).toNat = x.toNat * 256 + b.toNat := by
  rw [BitVec.toNat_append, ← Nat.shiftLeft_add_eq_or_of_lt b.isLt, Nat.shiftLeft_eq]

/-- The value of a 4-byte field, most significant byte first (00_scope.md R11). -/
theorem unbe32_toNat (a b c d : Byte) :
    (unbe32 [a, b, c, d]).toNat = ((a.toNat * 256 + b.toNat) * 256 + c.toNat) * 256 + d.toNat := by
  simp only [unbe32, List.getD_cons_zero, List.getD_cons_succ]
  rw [toNat_append_byte, toNat_append_byte, toNat_append_byte]

/-- A tag is alphabetic when its four bytes are letters (41_tag.md R135). -/
theorem all_alpha_eq_tagAlpha {l : List Byte} (h : l.length = 4) : l.all alpha = tagAlpha (tagOfBytes l) := by
  match l, h with
  | [a, b, c, d], _ => simp [tagAlpha, tagOfBytes, Bool.and_assoc]

/-! ### The phases of a frame -/

/-- A byte-serial machine `f` that reads frames of an input of `n` bytes: `fits` is its length test at a frame's
offset, and `next` follows a good frame. Both machines of R253 are such. -/
structure ReadsFrames (f : Serial → Byte → Serial) (fits : Nat → Nat → Bool) (n : Nat) (next : Serial → Serial) :
    Prop where
  len : ∀ m b, m.phase = .len → f m b = serialLen (fits m.c) n m b
  tag : ∀ m b, m.phase = .tag → f m b = serialTag m b
  pay : ∀ m b, m.phase = .pay → f m b = serialPay m b
  cks : ∀ m b, m.phase = .cks → f m b = serialSum next m b
  failed : ∀ m b c e, m.phase = .failed c e → f m b = m

/-- The machine after the length field of a frame at `m`, whose value is `len`. -/
def afterLen (m : Serial) (len : Nat) : Serial :=
  { m with phase := .tag, k := 0, len := len, acc := crcOnes }

/-- The machine after the bytes that the checksum covers. -/
def afterCovered (m : Serial) (tag pay : List Byte) : Serial :=
  serialCks { m with tag := tag, pay := pay, acc := crcFeed m.acc (tag ++ pay) }

section Phases

variable {f : Serial → Byte → Serial} {fits : Nat → Nat → Bool} {n : Nat} {next : Serial → Serial}
  (hf : ReadsFrames f fits n next) {m : Serial}

include hf

/-- A machine that has failed stays so. -/
theorem ReadsFrames.foldl_failed {c : Nat} {e : Err} (hp : m.phase = .failed c e) (l : List Byte) :
    (l.foldl f m).phase = .failed c e := by
  induction l generalizing m with
  | nil => exact hp
  | cons b l ih => rw [List.foldl_cons, hf.failed m b c e hp]; exact ih hp

/-- Phase LEN over its 4 bytes: the length field, then the length test. -/
theorem ReadsFrames.foldl_len (hp : m.phase = .len) (hk : m.k = 0) (hlen : m.len = 0) {l : List Byte}
    (hl : l.length = 4) :
    if fits m.c (unbe32 l).toNat = true then
      l.foldl f m = afterLen m (unbe32 l).toNat
    else (l.foldl f m).phase = .failed m.c (.sizeMismatch (unbe32 l) (n - m.c)) := by
  match l, hl with
  | [a, b, c, d], _ =>
    have hval := unbe32_toNat a b c d
    have hword : reg32 (((a.toNat * 256 + b.toNat) * 256 + c.toNat) * 256 + d.toNat) = unbe32 [a, b, c, d] := by
      rw [← hval, reg32_toNat]
    rw [hval]
    split <;> simp_all [hf.len, serialLen, afterLen]

/-- An input whose length field fails the length test (42_chunk.md R154, 43_container.md R181). -/
theorem ReadsFrames.foldl_of_not_fits (hp : m.phase = .len) (hk : m.k = 0) (hlen : m.len = 0) {l : List Byte}
    (h4 : 4 ≤ l.length) (hfits : fits m.c (unbe32 (memRead l 0 4)).toNat = false) :
    (l.foldl f m).phase = .failed m.c (.sizeMismatch (unbe32 (memRead l 0 4)) (n - m.c)) := by
  have hhead := hf.foldl_len hp hk hlen (memRead_length (buf := l) (a := 0) (n := 4) (by omega))
  rw [hfits, if_neg Bool.false_ne_true] at hhead
  have hsplit : l = memRead l 0 4 ++ l.drop 4 := (List.take_append_drop 4 l).symm
  rw [hsplit, List.foldl_append, ← hsplit]
  exact hf.foldl_failed hhead _

/-- Phase TAG over the bytes that are missing: it fails at the first one that is no letter. -/
theorem ReadsFrames.foldl_tag {l : List Byte} (hp : m.phase = .tag) (hne : l ≠ []) (hk : m.k + l.length = 4) :
    if l.all alpha = true then
      l.foldl f m =
        if m.len = 0 then serialCks { m with tag := m.tag ++ l, acc := crcFeed m.acc l }
        else { m with phase := .pay, k := 0, tag := m.tag ++ l, acc := crcFeed m.acc l }
    else (l.foldl f m).phase = .failed m.c (.formatError .notAlphabetic) := by
  induction l generalizing m with
  | nil => exact absurd rfl hne
  | cons b l ih =>
    rw [List.foldl_cons, hf.tag m b hp, serialTag]
    cases hb : alpha b with
    | false =>
      rw [if_neg (by simp [hb])]
      exact hf.foldl_failed rfl l
    | true =>
      by_cases hl : l = []
      · subst hl
        obtain hk3 : m.k = 3 := by simpa using hk
        simp [hb, hk3, serialCks]
      · have hk3 : m.k ≠ 3 := by
          have := List.length_pos_iff.mpr hl
          rw [List.length_cons] at hk
          omega
        have hstep := ih (m := { m with tag := m.tag ++ [b], acc := crcStep m.acc b, k := m.k + 1 }) hp hl
          (by rw [List.length_cons] at hk; simp only; omega)
        simpa [hb, hk3, serialCks] using hstep

/-- Phase PAY over the bytes that are missing. -/
theorem ReadsFrames.foldl_pay {l : List Byte} (hp : m.phase = .pay) (hne : l ≠ []) (hk : m.k + l.length = m.len) :
    l.foldl f m = serialCks { m with pay := m.pay ++ l, acc := crcFeed m.acc l } := by
  induction l generalizing m with
  | nil => exact absurd rfl hne
  | cons b l ih =>
    rw [List.length_cons] at hk
    rw [List.foldl_cons, hf.pay m b hp, serialPay]
    by_cases hl : l = []
    · subst hl
      simp_all [serialCks]
    · have hlast : m.k + 1 ≠ m.len := by
        have := List.length_pos_iff.mpr hl
        omega
      have hstep := ih (m := { m with pay := m.pay ++ [b], acc := crcStep m.acc b, k := m.k + 1 }) hp hl
        (by simp only; omega)
      simpa [hlast, serialCks] using hstep

/-- Phase CKS over its 4 bytes: the checksum field against the accumulator. -/
theorem ReadsFrames.foldl_cks (hp : m.phase = .cks) (hk : m.k = 0) (hexp : m.expected = 0) {l : List Byte}
    (hl : l.length = 4) :
    if m.acc ^^^ crcOnes = unbe32 l then
      ∃ m', l.foldl f m = next m' ∧ m'.c = m.c + 12 + m.len ∧
        m'.chunks = m.chunks ++ [⟨tagOfBytes m.tag, m.pay, some (m.acc ^^^ crcOnes)⟩]
    else (l.foldl f m).phase = .failed m.c (.checksumMismatch (m.acc ^^^ crcOnes) (unbe32 l)) := by
  match l, hl with
  | [a, b, c, d], _ =>
    have hword : reg32 (((a.toNat * 256 + b.toNat) * 256 + c.toNat) * 256 + d.toNat) = unbe32 [a, b, c, d] := by
      rw [← unbe32_toNat, reg32_toNat]
    split
    · rename_i hsum
      refine ⟨{ m with
        k := 3, expected := (a.toNat * 256 + b.toNat) * 256 + c.toNat, c := m.c + 12 + m.len
        chunks := m.chunks ++ [⟨tagOfBytes m.tag, m.pay, some (m.acc ^^^ crcOnes)⟩] }, ?_, rfl, rfl⟩
      simp [hf.cks, hp, hk, hexp, serialSum, hword, hsum]
    · rename_i hsum
      simp [hf.cks, hp, hk, hexp, serialSum, hword, hsum]

/-- Tag and payload phases together: the bytes that the checksum covers (42_chunk.md R153). -/
theorem ReadsFrames.foldl_covered (hp : m.phase = .tag) (hk : m.k = 0) (htag : m.tag = []) (hpay : m.pay = [])
    {tag pay : List Byte} (ht : tag.length = 4) (hlen : pay.length = m.len) (ha : tag.all alpha = true) :
    (tag ++ pay).foldl f m = afterCovered m tag pay := by
  have hne : tag ≠ [] := by rintro rfl; cases ht
  have hfold := hf.foldl_tag hp hne (by rw [hk, Nat.zero_add, ht])
  rw [if_pos ha, htag, List.nil_append] at hfold
  rw [List.foldl_append, hfold, afterCovered, crcFeed_append]
  by_cases hpay0 : pay = []
  · subst hpay0
    have hlen0 : m.len = 0 := hlen.symm
    rw [if_pos hlen0, List.foldl_nil, crcFeed_nil, ← hpay]
  · have hlen0 : m.len ≠ 0 := by
      have := List.length_pos_iff.mpr hpay0
      omega
    rw [if_neg hlen0, hf.foldl_pay rfl hpay0 (by simpa using hlen), hpay]
    rfl

/-- One frame, byte by byte: after the length test, the answer of the frame test, then `next`
(70_reset_and_hazards.md R253). -/
theorem ReadsFrames.foldl_frame (hp : m.phase = .len) (hk : m.k = 0) (hlen : m.len = 0) (htag : m.tag = [])
    (hpay : m.pay = []) {l : List Byte} {len : Nat} (hfield : (unbe32 (memRead l 0 4)).toNat = len)
    (hsize : l.length = len + 12) (hfits : fits m.c len = true) (rest : List Byte) :
    (∃ e, frameCheck l = .error e ∧ ((l ++ rest).foldl f m).phase = .failed m.c e) ∨
    (∃ x m', frameCheck l = .ok x ∧ (l ++ rest).foldl f m = rest.foldl f (next m') ∧ m'.c = m.c + l.length ∧
      m'.chunks = m.chunks ++ [x]) := by
  have hhead := hf.foldl_len hp hk hlen (memRead_length (buf := l) (a := 0) (n := 4) (by omega))
  rw [hfield, if_pos hfits] at hhead
  have hrun : (l ++ rest).foldl f m = rest.foldl f ((memRead l (8 + len) 4).foldl f
      ((memRead l 4 4 ++ memRead l 8 len).foldl f (afterLen m len))) := by
    conv_lhs => rw [frame_fields hsize]
    simp only [List.foldl_append, hhead]
  have ht : (memRead l 4 4).length = 4 := memRead_length (by omega)
  have hpl : (memRead l 8 len).length = len := memRead_length (by omega)
  have hne : memRead l 4 4 ≠ [] := List.length_pos_iff.mp (by omega)
  have hletters := all_alpha_eq_tagAlpha ht
  have hcases := frameCheck_cases l
  rw [hfield, tagBytes_tagOfBytes ht] at hcases
  rw [hrun]
  rcases hcases with ⟨ha, h⟩ | ⟨ha, pay, comp, rfl, rfl, hsum⟩
  · have htags := hf.foldl_tag (m := afterLen m len) rfl hne (by rw [ht]; rfl)
    rw [hletters, if_neg (by simp [ha])] at htags
    rw [List.foldl_append]
    exact .inl ⟨_, h, hf.foldl_failed (hf.foldl_failed (hf.foldl_failed htags _) _) _⟩
  · rw [hf.foldl_covered (m := afterLen m len) rfl rfl htag hpay ht hpl (hletters.trans ha)]
    have htail := hf.foldl_cks (m := afterCovered (afterLen m len) (memRead l 4 4) (memRead l 8 len)) rfl rfl rfl
      (l := memRead l (8 + len) 4) (memRead_length (by omega))
    have hacc : (afterCovered (afterLen m len) (memRead l 4 4) (memRead l 8 len)).acc ^^^ crcOnes =
      crc32 (memRead l 4 4 ++ memRead l 8 len) := rfl
    rw [hacc] at htail
    rcases hsum with ⟨hsum, h⟩ | ⟨hsum, h⟩
    · rw [if_pos hsum] at htail
      obtain ⟨m', hm', hc, hchunks⟩ := htail
      refine .inr ⟨_, m', h, congrArg (rest.foldl f) hm', ?_, hchunks⟩
      rw [hc, hsize, Nat.add_comm len, ← Nat.add_assoc]
      rfl
    · rw [if_neg hsum] at htail
      exact .inl ⟨_, h, hf.foldl_failed htail _⟩

end Phases

/-! ### The container machine -/

theorem readsFrames_serialByte (p : Params) (n : Nat) :
    ReadsFrames (serialByte p n) (fun c len => decide (len + 12 ≤ n - c)) n (serialEnter n) where
  len m b h := by rw [serialByte, h]
  tag m b h := by rw [serialByte, h]
  pay m b h := by rw [serialByte, h]
  cks m b h := by rw [serialByte, h]
  failed m b c e h := by rw [serialByte, h]

/-- Where the container machine stands when the frame loop has given its answer: DONE with its chunks, or failed with
its error, the chunks `before` having been there already. -/
def EndsAs (m : Serial) (before : List Chunk) : Except (Nat × Err) (List Chunk) → Prop
  | .ok cs => m.phase = .done ∧ m.chunks = before ++ cs
  | .error (c, e) => m.phase = .failed c e

theorem endsAs_nil {p : Params} {n : Nat} {m : Serial} (hn : n = m.c) :
    EndsAs (([] : List Byte).foldl (serialByte p n) (serialEnter n m)) m.chunks (.ok []) := by
  simp [EndsAs, serialEnter, hn]

/-- The machine before the first byte of a frame. -/
def atFrame (m : Serial) : Serial :=
  { m with phase := .len, k := 0, len := 0, tag := [], pay := [] }

@[simp] theorem atFrame_c (m : Serial) : (atFrame m).c = m.c := rfl

@[simp] theorem atFrame_chunks (m : Serial) : (atFrame m).chunks = m.chunks := rfl

/-- With 12 bytes left the next frame's length field comes (70_reset_and_hazards.md R253, FRAME). -/
theorem serialEnter_of_left {n : Nat} {m : Serial} (h : 12 ≤ n - m.c) :
    serialEnter n m = atFrame m := by
  rw [serialEnter, if_neg (by omega), if_neg (by omega)]
  rfl

/-- The container machine from a frame's offset on ends as the frame loop (43_container.md R181). -/
theorem foldl_serialByte_endsAs (p : Params) {n turns : Nat} {rest : List Byte} {m : Serial}
    (hn : n = m.c + rest.length) (hturns : rest.length ≤ turns) :
    EndsAs (rest.foldl (serialByte p n) (serialEnter n m)) m.chunks (parseFrames turns rest m.c) := by
  have hf := readsFrames_serialByte p n
  induction turns generalizing rest m with
  | zero =>
    obtain rfl := List.eq_nil_of_length_eq_zero (Nat.le_zero.mp hturns)
    exact endsAs_nil hn
  | succ turns ih =>
    have hleft : n - m.c = rest.length := by omega
    rcases parseFrames_succ turns rest m.c with
      ⟨rfl, h⟩ | ⟨hne, hlt, h⟩ | ⟨h12, hlt, h⟩ | ⟨size, hsize, hle, hframe⟩
    · rw [h]
      exact endsAs_nil hn
    · have hpos := List.length_pos_iff.mpr hne
      rw [h, serialEnter, if_neg (by omega), if_pos (by omega), hleft]
      exact hf.foldl_failed rfl rest
    · rw [h, serialEnter_of_left (by omega), EndsAs]
      have hlen := hf.foldl_of_not_fits (m := atFrame m) rfl rfl rfl (l := rest) (by omega)
        (decide_eq_false (by rw [atFrame_c]; omega))
      rwa [atFrame_c, hleft] at hlen
    · rw [serialEnter_of_left (by omega)]
      have htake : (rest.take size).length = size := List.length_take_of_le hle
      have hfield : (unbe32 (memRead (rest.take size) 0 4)).toNat = size - 12 := by
        rw [memRead_take (by omega)]
        omega
      have hrun := hf.foldl_frame (m := atFrame m) rfl rfl rfl rfl rfl hfield (by omega)
        (decide_eq_true (by rw [atFrame_c]; omega)) (rest.drop size)
      rw [List.take_append_drop, htake, atFrame_c, atFrame_chunks] at hrun
      rcases hrun with ⟨e, he, hfail⟩ | ⟨x, m', hx, hnext, hc, hchunks⟩
      · rcases hframe with ⟨e', he', h⟩ | ⟨x, hx, -⟩
        · obtain rfl : e = e' := Except.error.inj (he.symm.trans he')
          rw [h]
          exact hfail
        · rw [he] at hx
          cases hx
      · have hrec := ih (rest := rest.drop size) (m := m') (by rw [hc, List.length_drop]; omega)
          (by rw [List.length_drop]; omega)
        rw [hc, hchunks] at hrec
        rw [hnext]
        rcases hframe with ⟨e', he', -⟩ | ⟨x', hx', ⟨e, hr, h⟩ | ⟨xs, hr, h⟩⟩
        · rw [hx] at he'
          cases he'
        · rw [hr] at hrec
          rw [h]
          exact hrec
        · obtain rfl : x = x' := Except.ok.inj (hx.symm.trans hx')
          rw [hr] at hrec
          rw [h]
          exact ⟨hrec.1, by simpa using hrec.2⟩

/-- Phase SIG over the bytes that are missing: they are the signature's, or the machine fails at the first that is
not. -/
theorem foldl_serialByte_sig (p : Params) (n : Nat) {l : List Byte} {m : Serial} (hp : m.phase = .sig) (hne : l ≠ [])
    (hk : m.k + l.length = 8) :
    if l = p.sig.toList.drop m.k then
      ∃ m', l.foldl (serialByte p n) m = serialEnter n m' ∧ m'.c = 8 ∧ m'.chunks = m.chunks
    else (l.foldl (serialByte p n) m).phase = .failed 0 .badSignature := by
  induction l generalizing m with
  | nil => exact absurd rfl hne
  | cons b l ih =>
    rw [List.length_cons] at hk
    have hlt : m.k < p.sig.toList.length := by rw [Vector.length_toList]; omega
    have hget : p.sig.toList.getD m.k 0 = p.sig.toList[m.k] := List.getD_eq_getElem _ _ hlt
    rw [List.drop_eq_getElem_cons hlt, List.foldl_cons, serialByte, hp]
    simp only [serialSig, hget]
    by_cases hb : p.sig.toList[m.k] = b
    · rw [if_pos hb, hb]
      by_cases hl : l = []
      · subst hl
        have hk7 : m.k = 7 := by simpa using hk
        rw [if_pos hk7, if_pos (by rw [hk7, List.drop_eq_nil_of_le (by simp)])]
        exact ⟨_, rfl, rfl, rfl⟩
      · have hk7 : m.k ≠ 7 := by
          have := List.length_pos_iff.mpr hl
          omega
        have hstep := ih (m := { m with k := m.k + 1 }) hp hl (by simp only; omega)
        simpa [if_neg hk7] using hstep
    · rw [if_neg hb, if_neg (fun h => hb (List.cons.inj h).1.symm)]
      exact (readsFrames_serialByte p n).foldl_failed rfl l

/-- The machine that the container form starts (70_reset_and_hazards.md R253). -/
def containerStart (s : List Byte) : Serial :=
  serialStart (if s.length < 8 then .failed 0 .badSignature else .sig)

theorem containerParseSerial_of_failed {p : Params} {s : List Byte} {c : Nat} {e : Err}
    (h : (s.foldl (serialByte p s.length) (containerStart s)).phase = .failed c e) :
    containerParseSerial p s = .error (c, e) := by
  rw [containerStart] at h
  simp only [containerParseSerial, h]

theorem containerParseSerial_of_done {p : Params} {s : List Byte} {cs : List Chunk}
    (h : (s.foldl (serialByte p s.length) (containerStart s)).phase = .done)
    (hcs : (s.foldl (serialByte p s.length) (containerStart s)).chunks = cs) :
    containerParseSerial p s =
      if cs.length > p.maxChunks then .error (s.length, .capacityExceeded .maxChunks)
      else if s.length - 8 > p.storeCap then .error (s.length, .capacityExceeded .storeCap)
      else .ok cs := by
  rw [containerStart] at h hcs
  simp only [containerParseSerial, h, hcs]

/-- The container machine answers what the container parser answers (43_container.md R181). -/
theorem containerParseSerial_eq (p : Params) (s : List Byte) : containerParseSerial p s = containerParse p s := by
  have hf := readsFrames_serialByte p s.length
  by_cases h8 : s.length < 8
  · rw [containerParse, if_pos (.inl h8)]
    exact containerParseSerial_of_failed (hf.foldl_failed (by rw [containerStart, serialStart, if_pos h8]) s)
  · have hlen : (memRead s 0 8).length = 8 := memRead_length (by omega)
    have hrun : s.foldl (serialByte p s.length) (serialStart .sig) = (s.drop 8).foldl (serialByte p s.length)
        ((memRead s 0 8).foldl (serialByte p s.length) (serialStart .sig)) := by
      rw [← List.foldl_append]
      exact congrArg _ (List.take_append_drop 8 s).symm
    have hsig := foldl_serialByte_sig p s.length (m := serialStart .sig) (l := memRead s 0 8) rfl
      (List.length_pos_iff.mp (by omega)) (by rw [hlen]; rfl)
    have hdrop : p.sig.toList.drop (serialStart .sig).k = p.sig.toList := rfl
    rw [hdrop] at hsig
    have hstart : containerStart s = serialStart .sig := by rw [containerStart, if_neg h8]
    by_cases hs : memRead s 0 8 = p.sig.toList
    · rw [if_pos hs] at hsig
      obtain ⟨m', hm', hc, hchunks⟩ := hsig
      have hends := foldl_serialByte_endsAs p (n := s.length) (turns := s.length) (rest := s.drop 8) (m := m')
        (by rw [hc, List.length_drop]; omega) (by rw [List.length_drop]; omega)
      rw [hc, hchunks, ← hm', ← hrun, ← hstart] at hends
      rw [containerParse, if_neg (not_or.mpr ⟨h8, not_not_intro hs⟩)]
      cases hparse : parseFrames s.length (s.drop 8) 8 with
      | error e =>
        rw [hparse] at hends
        exact containerParseSerial_of_failed hends
      | ok cs =>
        rw [hparse] at hends
        exact containerParseSerial_of_done hends.1 hends.2
    · rw [if_neg hs] at hsig
      rw [containerParse, if_pos (.inr hs)]
      refine containerParseSerial_of_failed ?_
      rw [hstart, hrun]
      exact hf.foldl_failed hsig _

/-! ### The one-frame machine -/

theorem readsFrames_serialFrameByte (n : Nat) :
    ReadsFrames (serialFrameByte n) (fun _ len => decide (n = len + 12)) n (fun m => { m with phase := .done }) where
  len m b h := by rw [serialFrameByte, h]
  tag m b h := by rw [serialFrameByte, h]
  pay m b h := by rw [serialFrameByte, h]
  cks m b h := by rw [serialFrameByte, h]
  failed m b c e h := by rw [serialFrameByte, h]

/-- The machine that the one-frame form starts (70_reset_and_hazards.md R253). -/
def frameStart (s : List Byte) : Serial :=
  serialStart (if s.length < 12 then .failed 0 (.truncatedInput s.length) else .len)

theorem chunkParseSerial_of_failed {s : List Byte} {c : Nat} {e : Err}
    (h : (s.foldl (serialFrameByte s.length) (frameStart s)).phase = .failed c e) :
    chunkParseSerial s = .error e := by
  rw [frameStart] at h
  simp only [chunkParseSerial, h]

theorem chunkParseSerial_of_done {s : List Byte} {cs : List Chunk}
    (h : (s.foldl (serialFrameByte s.length) (frameStart s)).phase = .done)
    (hcs : (s.foldl (serialFrameByte s.length) (frameStart s)).chunks = cs) :
    chunkParseSerial s = .ok cs := by
  rw [frameStart] at h hcs
  simp only [chunkParseSerial, h, hcs]

/-- The one-frame machine answers what the chunk parser answers (42_chunk.md R154). -/
theorem chunkParseSerial_eq (s : List Byte) : chunkParseSerial s = (chunkParse s).map fun c => [c] := by
  have hf := readsFrames_serialFrameByte s.length
  rcases chunkParse_cases s with ⟨h12, h⟩ | ⟨h12, hsize, h⟩ | ⟨hsize, h⟩ <;> rw [h]
  · exact chunkParseSerial_of_failed (hf.foldl_failed (by rw [frameStart, serialStart, if_pos h12]) s)
  · have hstart : frameStart s = serialStart .len := by rw [frameStart, if_neg (by omega)]
    refine chunkParseSerial_of_failed (c := 0) ?_
    rw [hstart]
    exact hf.foldl_of_not_fits (m := serialStart .len) rfl rfl rfl (by omega) (by simpa using hsize)
  · have hstart : frameStart s = serialStart .len := by rw [frameStart, if_neg (by omega)]
    have hrun := hf.foldl_frame (m := serialStart .len) rfl rfl rfl rfl rfl rfl hsize (by simpa using hsize) []
    rw [List.append_nil, ← hstart] at hrun
    rcases hrun with ⟨e, he, hfail⟩ | ⟨x, m', hx, hdone, -, hchunks⟩
    · rw [he]
      exact chunkParseSerial_of_failed hfail
    · rw [hx]
      refine chunkParseSerial_of_done ?_ ?_ <;> rw [hdone]
      · rfl
      · exact hchunks

/-! ### The serializer -/

/-- The serializer's pair runs over the bytes that it writes (42_chunk.md R152). -/
theorem foldl_serSerial (l out : List Byte) (acc : Word) :
    l.foldl (fun (m : List Byte × Word) b => (m.1 ++ [b], crcStep m.2 b)) (out, acc) = (out ++ l, crcFeed acc l) := by
  induction l generalizing out acc with
  | nil => simp
  | cons b l ih => simp [ih]

theorem serSerial_eq (c : Chunk) : serSerial c = ser c := by
  rw [serSerial, foldl_serSerial]
  simp only [ser, List.append_assoc]
  rfl

/-- Settles O57: each machine computes what its rule reads off the input at once. -/
theorem byteSerialMachineAgrees : Obligations.ByteSerialMachineAgrees := by
  unfold Obligations.ByteSerialMachineAgrees
  exact ⟨containerParseSerial_eq, chunkParseSerial_eq, serSerial_eq⟩

end Sys2Proof.Machine
end
